-- ==== Sys2Proof/Word.lean ====
section
/-! DEFINITION. The words of the command interface (rules R80 to R84), the named values the spec gives
its fields, and the one-value types the state is made of. -/

namespace Sys2Proof

/-- One byte of the non-volatile memory (R60), and the width of `CMD_OP` (R80). -/
abbrev Byte := BitVec 8

/-- One integer operand field: 32 bits (R83). -/
abbrev Word := BitVec 32

/-- One cosine of a real number: `factor * cos(2*pi*turn)`. -/
structure CosTerm where
  turn : Rat
  factor : Rat
  deriving DecidableEq, Repr, Inhabited

/-- The real number `rational + factor_1 * cos(2*pi*turn_1) + ...`. Every sum, difference and product of such
numbers is one again, and so is the coefficient `2*cos(2*pi*fc/FS)` (R122) of every rational frequency: all
that the block computes from rational operands in the reference instance. -/
structure CosSum where
  rational : Rat
  cosines : List CosTerm
  deriving DecidableEq, Repr, Inhabited

/-- A rational number as a sum of cosines. -/
def CosSum.ofRat (q : Rat) : CosSum :=
  ⟨q, []⟩

/-- The carrier of the numeric structure `NUM` (R121) as plain data, each element a way to write a real number:
a sum of cosines; a constant by its number, which may be any real number (`Config.constantWhole`,
`Config.constantDigit`); and what the operations of `NUM` make of such numbers, the coefficient
`2*cos(2*pi*fc/FS)` of a frequency that is no rational among them. Another instance takes the elements as
codes of those of its own carrier (`NumInst.abstract`). DESIGN CHOICE, log entry 3. -/
inductive RealNum where
  | cosines (x : CosSum)
  | constant (k : Nat)
  | sum (x y : RealNum)
  | difference (x y : RealNum)
  | product (x y : RealNum)
  | coefficient (fc : RealNum) (fs : Nat)
  deriving DecidableEq, Repr, Inhabited

/-- A rational number as a real number. -/
def RealNum.ofRat (q : Rat) : RealNum :=
  .cosines (.ofRat q)

/-- The two execution contexts, `CMD_CTX` (R80): 0 is `fg`, the foreground loop; 1 is `int`, the
interrupt context. -/
inductive Ctx where
  | fg
  | int
  deriving DecidableEq, Repr

/-- The mode held by `CSM.MODE` (R34): Off 0, On 1, Auto 2; the reserved value 3 is never held, so it is
no constructor (D5 asks for enumerations, encoded only at the interface). -/
inductive Mode where
  | off
  | on
  | auto
  deriving DecidableEq, Repr, Inhabited

/-- The relay decision held by `CSM.RD` (R35): Open 0, Closed 1. -/
inductive Decision where
  | opened
  | closed
  deriving DecidableEq, Repr

/-- The content of a state element whose reset value is *unwritten* (R20, R21, R45). `unwritten` is the
spec's own state of such an element, not a missing value: "A state element marked *unwritten* holds no
value until an operation writes it", and "The model must not substitute zero or any other value." -/
inductive Element (α : Type) where
  | unwritten
  | written (v : α)
  deriving DecidableEq, Repr

/-- One result field `RSP_D0` to `RSP_D2` (R84): no data, an integer, its low bits alone (`RSP_D0[1:0]` of
`ACQ.TAKE`, `RSP_D0[0]` of `SPE.FEED` and `PST.INIT`: R84 gives no higher bit, and the model none), a Real,
or a reference to a parameter's label (its representation is outside the block). -/
inductive RspField where
  | none
  | int (v : Int)
  | bits (width value : Nat)
  | real (q : RealNum)
  | label (text : String)
  deriving DecidableEq, Repr, Inhabited

/-- The status of a response with the information R200 records for it. -/
inductive Status where
  | ok
  | indexOutOfRange (index : Nat)
  | valueTooLarge (index : Nat) (value : Int)
  | valueTooSmall (index : Nat) (value : Int)
  | illegalCommand (code : Byte)
  deriving DecidableEq, Repr

/-- The response record `(RSP_STATUS, RSP_D0, RSP_D1, RSP_D2)` (R80). -/
structure Response where
  status : Status
  d0 : RspField
  d1 : RspField
  d2 : RspField
  deriving DecidableEq, Repr

/-- One operand field of a command record: 32 bits, or one element of `Real` in the representation `NUM`
defines, which the spec does not fix (R83). -/
inductive Field where
  | int (v : Word)
  | real (q : RealNum)
  deriving DecidableEq, Repr

/-- The command record `(CMD_CTX, CMD_OP, OPA, OPB, OPC, OPD, OPE)` (R80). -/
structure Record where
  ctx : Ctx
  op : Byte
  opa : Field
  opb : Field
  opc : Field
  opd : Field
  ope : Field
  deriving DecidableEq, Repr

end Sys2Proof
end

