-- ==== Sys2Proof/Config.lean ====
section
/-! DEFINITION. The configuration record of rule R9 as plain data, the uninterpreted constants that stand
for what the spec leaves open, and the spec's own example configuration TOY. -/

namespace Sys2Proof

/-- One entry of the parameter schema (R9 `SCHEMA[i]`, R160): label, inclusive bounds, default. -/
structure ParamSchema where
  label : String
  minimum : Int
  maximum : Int
  default : Int
  deriving DecidableEq, Repr

/-- Which numeric structure `NUM` is (R9, R121): the argument of the model that R9 leaves OPEN. `exact` is
the reference instance, exact real arithmetic; `abstract k` is any other instance, number k, its elements
coded by those of `RealNum`: its functions are uninterpreted, so that "The machine assumes nothing of these
functions except that each result depends on its arguments alone". -/
inductive NumInst where
  | exact
  | abstract (k : Nat)
  deriving DecidableEq, Repr

/-- The function `DIGEST` (R9, R160): a finite table with one value elsewhere, or an uninterpreted
function, number k. -/
inductive DigestFn where
  | table (rows : List (List ParamSchema × BitVec 16)) (other : BitVec 16)
  | abstract (k : Nat)
  deriving DecidableEq, Repr

/-- A conversion of a stored integer to a `Real` (`thrOf`, `ratioOf`, `freqOf` of R9, OPEN): multiplication
by a fixed factor, a finite table with one value elsewhere (a slot holds finitely many values, so every
function on stored values is one), or an uninterpreted function, number k. -/
inductive RealConv where
  | scale (factor : RealNum)
  | table (rows : List (Int × RealNum)) (other : RealNum)
  | abstract (k : Nat)
  deriving DecidableEq, Repr

/-- The conversion `modeOf` (R9): 0, 1, 2 are Off, On, Auto and any other value Auto, a finite table with one
value elsewhere, or an uninterpreted function, number k. -/
inductive ModeConv where
  | direct
  | table (rows : List (Int × Mode)) (other : Mode)
  | abstract (k : Nat)
  deriving DecidableEq, Repr

/-- The conversion `offDelayOf` (R9) before the bound R9 places on its results: the stored value itself (a
negative one, possible with `PVAL_SIGNED`, has no delay in the spec: 0 is the model's, log entry 5), a finite
table with one value elsewhere, or an uninterpreted function, number k. -/
inductive DelayConv where
  | direct
  | table (rows : List (Int × Nat)) (other : Nat)
  | abstract (k : Nat)
  deriving DecidableEq, Repr

/-- The configuration record (R9): every parameter of its table, by its name there. `NPARAM` is the
length of `schema`; `DS_BITS` and `N` are derived. `offDelayMax` is the largest result of `offDelayOf`, the
form in which R9's constraint on that function can be checked (log entry 5). Constants of the hardware (R8)
are no fields. -/
structure Config where
  rawBits : Nat
  accBits : Nat
  m : Nat
  fs : Nat
  fClk : Nat
  prescalers : List Nat
  timerMax : Nat
  num : NumInst
  kappa : RealNum
  hyst : RealNum
  cntBits : Nat
  resetOnMiss : Bool
  blinkTicks : Nat
  onDelay : Nat
  offDelayOf : DelayConv
  offDelayMax : Nat
  thrOf : RealConv
  ratioOf : RealConv
  freqOf : RealConv
  modeOf : ModeConv
  schema : List ParamSchema
  idxHigh : Nat
  idxDelay : Nat
  idxRatio : Nat
  idxFreq : Nat
  idxMode : Nat
  stride : Nat
  pvalSigned : Bool
  digest : DigestFn
  nvmSize : Nat
  wdMult : Rat
  deriving DecidableEq, Repr

/-! Uninterpreted constants: nothing in Lean can evaluate them or prove a value of them, so what is
proved holds whatever they are. -/

/-- `NUM.zero` of the abstract instance number k (R121; log entry 3). -/
opaque Config.numZero : Nat → RealNum
/-- `NUM.ofInt` of the abstract instance number k (R121; log entry 3). -/
opaque Config.numOfInt : Nat → Int → RealNum
/-- `NUM.add` of the abstract instance number k (R121; log entry 3). -/
opaque Config.numAdd : Nat → RealNum → RealNum → RealNum
/-- `NUM.sub` of the abstract instance number k (R121; log entry 3). -/
opaque Config.numSub : Nat → RealNum → RealNum → RealNum
/-- `NUM.mul` of the abstract instance number k (R121; log entry 3). -/
opaque Config.numMul : Nat → RealNum → RealNum → RealNum
/-- `NUM.le` of the abstract instance number k (R121; log entry 3). -/
opaque Config.numLe : Nat → RealNum → RealNum → Bool
/-- `NUM.coeff` of the abstract instance number k (R121; log entry 3). -/
opaque Config.numCoeff : Nat → RealNum → Nat → RealNum
/-- FREE VALUE (log entry 4): the whole part of the real number `RealNum.constant k`. -/
opaque Config.constantWhole : Nat → Int
/-- FREE VALUE (log entry 4): the binary digits after the point of `RealNum.constant k`. -/
opaque Config.constantDigit : Nat → Nat → Fin 2
/-- `DIGEST` number k (R160: "Claims may assume only determinism", D29; log entry 5). -/
opaque Config.digestFn : Nat → List ParamSchema → BitVec 16
/-- `thrOf`, `ratioOf` or `freqOf` number k (R9 OPEN; log entry 5). -/
opaque Config.realConv : Nat → Int → RealNum
/-- `modeOf` number k (R9 OPEN; log entry 5). -/
opaque Config.modeConv : Nat → Int → Mode
/-- `offDelayOf` number k before its bound (R9 OPEN; log entry 5). -/
opaque Config.delayConv : Nat → Int → Nat
/-- FREE VALUE (log entry 6): the content of response field number `f` of the step number `n`, where the
spec calls the field unspecified (U3, U21). -/
opaque Config.freeResponse : (n f : Nat) → RspField
/-- FREE VALUE (log entry 7): `RELAY_OUT` after step number `n` while it is unspecified (U9). -/
opaque Config.freeRelay : Nat → Bool
/-- FREE VALUE (log entry 7): `IND_OUT` after step number `n` while it is unspecified (U9). -/
opaque Config.freeIndicator : Nat → Bool

/-- The toy schema of `43_parameter_store.md`. -/
def Config.toySchema : List ParamSchema :=
  [⟨"HIGH", 1, 1000, 40⟩, ⟨"DELAY", 0, 600, 5⟩, ⟨"RATIO", 1, 5000, 100⟩, ⟨"FREQ", 45, 65, 50⟩,
   ⟨"MODE", 0, 2, 2⟩]

/-- The configuration TOY of `95_test_vectors.md` section 0, "not the device's". It is the configuration
`State.reset` carries. DESIGN CHOICE, log entry 2 (`WD_MULT` has no value there: 2 is the model's) and log
entry 5 (TOY's `offDelayOf(v) = v` breaks R9's bound from 255 on: 254 is taken there; of TOY's `DIGEST` the
spec gives `0xBEEF` on TOY's own schema and, in S4, `0x1D0F` on one changed schema: that every other schema
has `0x1D0F` is the model's). -/
def Config.toy : Config where
  rawBits := 10
  accBits := 16
  m := 2
  fs := 200
  fClk := 1000000
  prescalers := [1, 8, 64]
  timerMax := 255
  num := .exact
  kappa := .ofRat 1
  hyst := .ofRat 10
  cntBits := 8
  resetOnMiss := false
  blinkTicks := 2
  onDelay := 1
  offDelayOf := .direct
  offDelayMax := 254
  thrOf := .scale (.ofRat 1)
  ratioOf := .scale (.ofRat (mkRat 1 1000))
  freqOf := .scale (.ofRat 1)
  modeOf := .direct
  schema := Config.toySchema
  idxHigh := 0
  idxDelay := 1
  idxRatio := 2
  idxFreq := 3
  idxMode := 4
  stride := 2
  pvalSigned := false
  digest := .table [(Config.toySchema, 0xBEEF#16)] 0x1D0F#16
  nvmSize := 16
  wdMult := 2

end Sys2Proof
end

