-- ==== Sys2Proof/Machine/Num.lean ====
section
/-! DEFINITION. The numeric structure `NUM` (R121), its instances, and the two expressions of `SPE.FEED`
(R123) over any instance, in the order the parentheses of the rule give. The reference instance is exact
real arithmetic on `RealNum`: evaluated where the numbers are sums of cosines, written down where they are not.
`Sys2Proof/Laws/Real.lean` proves of every function of it that it gives what its name says of the real numbers
denoted. -/

namespace Sys2Proof.Machine

/-- The functions of `NUM` over a carrier `R` (R121). -/
structure Num (R : Type) where
  zero : R
  ofInt : Int → R
  add : R → R → R
  sub : R → R → R
  mul : R → R → R
  le : R → R → Bool
  coeff : R → Nat → R

/-! ### Rational arithmetic, as normalised fractions (so that plain evaluation computes it) -/

/-- The sum of two rationals. -/
def ratAdd (a b : Rat) : Rat :=
  mkRat (a.num * b.den + b.num * a.den) (a.den * b.den)

/-- The difference of two rationals. -/
def ratSub (a b : Rat) : Rat :=
  mkRat (a.num * b.den - b.num * a.den) (a.den * b.den)

/-- The product of two rationals. -/
def ratMul (a b : Rat) : Rat :=
  mkRat (a.num * b.num) (a.den * b.den)

/-- The order of the rationals. -/
def ratLe (a b : Rat) : Bool :=
  decide (a.num * b.den ≤ b.num * a.den)

/-- The integer nearest to a rational. -/
def nearestInt (a : Rat) : Int :=
  (2 * a.num + a.den) / (2 * a.den : Nat)

/-! ### Sums, differences and products of real numbers -/

/-- `a * cos(2*pi*t)` added to a list of cosines in rising order of their turns: cosines of one turn are
merged and a zero factor is dropped. -/
def insertCosine (t a : Rat) : List CosTerm → List CosTerm
  | [] => if a = 0 then [] else [⟨t, a⟩]
  | c :: l =>
    if t = c.turn then
      if ratAdd a c.factor = 0 then l else ⟨t, ratAdd a c.factor⟩ :: l
    else if ratLe c.turn t then c :: insertCosine t a l
    else if a = 0 then c :: l
    else ⟨t, a⟩ :: c :: l

/-- `x + a * cos(2*pi*k/n)` for a turn `k/n` of at most a quarter: the cosines of 0, a sixth and a quarter of
a turn are the rationals 1, 1/2 and 0. -/
def placeCosine (k n : Nat) (a : Rat) (x : CosSum) : CosSum :=
  if k = 0 then { x with rational := ratAdd x.rational a }
  else if 4 * k = n then x
  else if 6 * k = n then { x with rational := ratAdd x.rational (ratMul a (mkRat 1 2)) }
  else { x with cosines := insertCosine (mkRat k n) a x.cosines }

/-- `x + a * cos(2*pi*k/n)` for a turn `k/n` of at most a half: past a quarter it is minus the cosine of what
is left to the half. -/
def addFolded (k n : Nat) (a : Rat) (x : CosSum) : CosSum :=
  if n < 4 * k then placeCosine (n - 2 * k) (2 * n) (ratMul (-1) a) x
  else placeCosine k n a x

/-- The `k < n` with the turn `t` equal to `k/n` but for whole turns, when its denominator divides `n`. -/
def turnIndex (n : Nat) (t : Rat) : Nat :=
  (t.num * ((n / t.den : Nat) : Int) % (n : Int)).toNat

/-- `x + a * cos(2*pi*t)`: whole turns do not count, and past a half turn the cosine is that of what is left
to the whole. -/
def addCosine (t a : Rat) (x : CosSum) : CosSum :=
  let k := turnIndex t.den t
  addFolded (if t.den < 2 * k then t.den - k else k) t.den a x

/-- A number and a list of cosines added. -/
def addTerms (l : List CosTerm) (x : CosSum) : CosSum :=
  l.foldr (fun t y => addCosine t.turn t.factor y) x

/-- A list of cosines, each multiplied by a rational. -/
def scaleTerms (a : Rat) (l : List CosTerm) : List CosTerm :=
  l.map fun t => ⟨t.turn, ratMul a t.factor⟩

/-- The product of two cosines: half the cosine of the sum of the turns and half that of the difference. -/
def productTerms (s t : CosTerm) : List CosTerm :=
  let a := ratMul (mkRat 1 2) (ratMul s.factor t.factor)
  [⟨ratAdd s.turn t.turn, a⟩, ⟨ratSub s.turn t.turn, a⟩]

/-- The exact sum. -/
def cosAdd (x y : CosSum) : CosSum :=
  addTerms (x.cosines ++ y.cosines) (.ofRat (ratAdd x.rational y.rational))

/-- The exact difference. -/
def cosSub (x y : CosSum) : CosSum :=
  addTerms (x.cosines ++ scaleTerms (-1) y.cosines) (.ofRat (ratSub x.rational y.rational))

/-- The exact product. -/
def cosMul (x y : CosSum) : CosSum :=
  addTerms
    (scaleTerms x.rational y.cosines ++ scaleTerms y.rational x.cosines
      ++ x.cosines.flatMap fun s => y.cosines.flatMap fun t => productTerms s t)
    (.ofRat (ratMul x.rational y.rational))

/-! ### The order of the real numbers

A number whose turns have the common denominator `n` is, multiplied by twice its common denominator `D`, an
algebraic integer of the `n`-th cyclotomic field with all conjugates at most `S` in size; where it is not
zero its own size is therefore at least `1 / (2 * D * S^n)`. Computed to less than half of that, its sign is
known. -/

/-- Whether one of `m` successive terms of the recurrence `w = 2*y*v - scale*u` is not positive. -/
def someNonpositive (y scale : Int) : Nat → Int → Int → Bool
  | 0, _, _ => false
  | m + 1, u, v => decide (u ≤ 0) || someNonpositive y scale m v (2 * y * v - scale * u)

/-- Whether `y / 2^k` is at most `cos(pi/n)`: with `y / 2^k = cos(phi)`, whether one of
`sin(phi), sin(2*phi), ..., sin(n*phi)` is not positive (Chebyshev's polynomials of the second kind). -/
def atMostCosine (n k y : Nat) : Bool :=
  someNonpositive y (4 ^ k) n 1 (2 * y)

/-- The first `k` binary digits of `cos(pi/n)`, `n` at least 2, as an integer. -/
def cosineDigits (n : Nat) : Nat → Nat
  | 0 => 0
  | k + 1 =>
    if atMostCosine n (k + 1) (2 * cosineDigits n k + 1) then 2 * cosineDigits n k + 1
    else 2 * cosineDigits n k

/-- The terms `j` and `j + 1` of the recurrence `w = 2*y*v - scale*u` from 1 and `y`: with
`y / 2^k = cos(phi)` and `scale = 4^k`, the cosines of `j*phi` and `(j + 1)*phi` times `2^(k*j)` and
`2^(k*(j + 1))` (Chebyshev's polynomials of the first kind). -/
def chebyshev (y scale : Int) : Nat → Int × Int
  | 0 => (1, y)
  | j + 1 => ((chebyshev y scale j).2, 2 * y * (chebyshev y scale j).2 - scale * (chebyshev y scale j).1)

/-- A common denominator of the turns, an even one. -/
def commonOrder (l : List CosTerm) : Nat :=
  l.foldr (fun t n => Nat.lcm t.turn.den n) 2

/-- A common denominator of the rational part and the factors. -/
def commonDen (x : CosSum) : Nat :=
  x.cosines.foldr (fun t d => Nat.lcm t.factor.den d) x.rational.den

/-- `d * q`, for a `d` that the denominator of `q` divides. -/
def cleared (d : Nat) (q : Rat) : Int :=
  q.num * (d / q.den : Nat)

/-- The bound `S` on the conjugates. -/
def conjugateBound (x : CosSum) : Nat :=
  2 * x.cosines.foldr (fun t s => (cleared (commonDen x) t.factor).natAbs + s)
    (cleared (commonDen x) x.rational).natAbs

/-- The number of binary digits that decides the sign. -/
def precision (x : CosSum) : Nat :=
  Nat.log2 (8 * commonOrder x.cosines ^ 2 * conjugateBound x ^ (commonOrder x.cosines + 1)) + 1

/-- `cos(2*pi*t)` from `k` digits of `cos(pi/n)`. -/
def approxCosine (n k : Nat) (t : Rat) : Rat :=
  mkRat (chebyshev (cosineDigits n k) (4 ^ k) (2 * turnIndex n t)).1 (2 ^ (k * (2 * turnIndex n t)))

/-- The number, computed from `k` digits. -/
def approxTo (k : Nat) (x : CosSum) : Rat :=
  x.cosines.foldr
    (fun t q => ratAdd (ratMul t.factor (approxCosine (commonOrder x.cosines) k t.turn)) q)
    x.rational

/-- The number, computed to its precision. -/
def approx (x : CosSum) : Rat :=
  approxTo (precision x) x

/-- Whether a number is at least 0. -/
def nonneg (x : CosSum) : Bool :=
  match x.cosines with
  | [] => decide (0 ≤ x.rational.num)
  | _ => ratLe (mkRat (-1) (4 * commonDen x * conjugateBound x ^ commonOrder x.cosines)) (approx x)

/-- The order of the real numbers. -/
def cosLe (x y : CosSum) : Bool :=
  nonneg (cosSub y x)

/-- The rational number that a number is, if it is one: twice its common denominator makes it an integer. -/
def cosRational (x : CosSum) : Option Rat :=
  match x.cosines with
  | [] => some x.rational
  | _ =>
    let q := mkRat (nearestInt (ratMul (mkRat (2 * commonDen x) 1) (approx x))) (2 * commonDen x)
    if cosLe x (.ofRat q) && cosLe (.ofRat q) x then some q else none

/-- `2*cos(2*pi*t)`. -/
def twiceCosine (t : Rat) : CosSum :=
  addCosine t 2 (.ofRat 0)

/-! ### The operations of the reference instance -/

/-- `a + b` (R15, R121). -/
def exactAdd : RealNum → RealNum → RealNum
  | .cosines x, .cosines y => .cosines (cosAdd x y)
  | a, b => .sum a b

/-- `a - b` (R15, R121). -/
def exactSub : RealNum → RealNum → RealNum
  | .cosines x, .cosines y => .cosines (cosSub x y)
  | a, b => .difference a b

/-- `a * b` (R15, R121); a factor 0 makes it 0. -/
def exactMul : RealNum → RealNum → RealNum
  | .cosines x, .cosines y => .cosines (cosMul x y)
  | a, b => if a = .ofRat 0 ∨ b = .ofRat 0 then .ofRat 0 else .product a b

/-- The rational number that a frequency is found to be. -/
def rationalOf : RealNum → Option Rat
  | .cosines x => cosRational x
  | _ => none

/-- `coeff(fc, FS) = 2*cos(2*pi*fc/FS)` (R121, R122, G1): evaluated at a rational frequency. -/
def exactCoeff (fc : RealNum) (fs : Nat) : RealNum :=
  match rationalOf fc with
  | some q => .cosines (twiceCosine (mkRat q.num (q.den * fs)))
  | none => .coefficient fc fs

/-- An interval of the real line: its middle and its radius. -/
structure Enclosure where
  mid : Rat
  rad : Rat
  deriving DecidableEq, Repr

/-- The whole part and the first `n` binary digits of the real number `RealNum.constant k`. -/
def constantDigits (k : Nat) : Nat → Rat
  | 0 => Config.constantWhole k
  | n + 1 => constantDigits k n + (Config.constantDigit k n).val / 2 ^ (n + 1)

/-- Intervals that hold a number and shrink to it as `n` grows. -/
def enclose : RealNum → Nat → Enclosure
  | .cosines x, n =>
    ⟨approxTo n x,
      x.cosines.foldr (fun t s => |t.factor| + s) 0 * ((2 * commonOrder x.cosines) ^ 2 / 2 ^ n)⟩
  | .constant k, n => ⟨constantDigits k n, 1 / 2 ^ n⟩
  | .sum x y, n => ⟨(enclose x n).mid + (enclose y n).mid, (enclose x n).rad + (enclose y n).rad⟩
  | .difference x y, n => ⟨(enclose x n).mid - (enclose y n).mid, (enclose x n).rad + (enclose y n).rad⟩
  | .product x y, n =>
    ⟨(enclose x n).mid * (enclose y n).mid,
      |(enclose x n).mid| * (enclose y n).rad + |(enclose y n).mid| * (enclose x n).rad
        + (enclose x n).rad * (enclose y n).rad⟩
  | .coefficient fc fs, n =>
    let turn := (enclose fc n).mid / fs
    ⟨2 * approxCosine (2 * turn.den) (n + Nat.log2 ((4 * turn.den) ^ 2) + 1) turn,
      14 * (enclose fc n).rad / fs + 2 / 2 ^ n⟩

/-- Whether the interval number `n` shows a number to be below 0. -/
def shownNegative (x : RealNum) (n : Nat) : Bool :=
  decide ((enclose x n).mid + (enclose x n).rad < 0)

/-- The first index from `n` on at which a test holds; none when it holds at no index. -/
def firstIndex (p : Nat → Bool) (n : Nat) : Option Nat :=
  if p n then some n else firstIndex p (n + 1)
partial_fixpoint

/-- `a <= b` (R15, R121): decided by evaluation between sums of cosines. Between other numbers it is the order of
the real numbers all the same, that no interval shows `b - a` below 0; but nothing evaluates it, as an
evaluation of `firstIndex` ends only where an index exists (log entry 4). -/
def exactLe : RealNum → RealNum → Bool
  | .cosines x, .cosines y => cosLe x y
  | a, b => (firstIndex (shownNegative (.difference b a)) 0).isNone

/-! ### The instances -/

/-- The reference instance: exact real arithmetic (R121). -/
def exactNum : Num RealNum where
  zero := .ofRat 0
  ofInt x := .ofRat (mkRat x 1)
  add := exactAdd
  sub := exactSub
  mul := exactMul
  le := exactLe
  coeff := exactCoeff

/-- Any other instance, number k: uninterpreted functions (R121). -/
def abstractNum (k : Nat) : Num RealNum where
  zero := Config.numZero k
  ofInt := Config.numOfInt k
  add := Config.numAdd k
  sub := Config.numSub k
  mul := Config.numMul k
  le := Config.numLe k
  coeff := Config.numCoeff k

/-- The configured instance (R9 `NUM`). -/
def numOf (c : Config) : Num RealNum :=
  match c.num with
  | .exact => exactNum
  | .abstract k => abstractNum k

/-- The new filter state of `SPE.FEED` (R123): `(x + (COEFF * S1)) - S2`, with `x` the `ofInt` of the
sample. -/
def filterState {R : Type} (N : Num R) (coeff s1 s2 x : R) : R :=
  N.sub (N.add x (N.mul coeff s1)) s2

/-- The finalised power of `SPE.FEED` (R123):
`KAPPA * (((s0 * s0) + (S1 * S1)) - ((COEFF * s0) * S1))`. -/
def finalPower {R : Type} (N : Num R) (kappa coeff s0 s1 : R) : R :=
  N.mul kappa (N.sub (N.add (N.mul s0 s0) (N.mul s1 s1)) (N.mul (N.mul coeff s0) s1))

end Sys2Proof.Machine
end

