-- ==== Sys2Proof/Machine/Configuration.lean ====
section
/-! DEFINITION. What the configuration record derives (R8, R9, R61, R101, R160) and when it is well formed
(R10). -/

namespace Sys2Proof.Machine

/-- `DS_BITS = ACC_BITS - 2` (R9, R26). -/
def dsBits (c : Config) : Nat :=
  c.accBits - 2

/-- The window length `N = 2^M` (R8, R32). -/
def windowLength (c : Config) : Nat :=
  2 ^ c.m

/-- `NPARAM`, the number of table entries (R9). -/
def paramCount (c : Config) : Nat :=
  c.schema.length

/-- `slot(i) = 2 + STRIDE * i` (R61). -/
def slot (c : Config) (i : Nat) : Nat :=
  2 + c.stride * i

/-- The configured `DIGEST` (R9, R160). -/
def digestOf (d : DigestFn) (schema : List ParamSchema) : BitVec 16 :=
  match d with
  | .table rows other =>
    match rows.find? fun r => decide (r.1 = schema) with
    | some r => r.2
    | none => other
  | .abstract k => Config.digestFn k schema

/-- `EXPECTED = DIGEST(SCHEMA)` (R160). -/
def expectedChecksum (c : Config) : BitVec 16 :=
  digestOf c.digest c.schema

/-- `cmp(p) = F_CLK div (p * targetRate)` (R101). R9 does not exclude a prescaler 0, whose quotient the
spec gives no value: DESIGN CHOICE (log entry 21), the quotient is 0 and such a prescaler never fits. -/
def compareValue (c : Config) (rate p : Nat) : Nat :=
  c.fClk / (p * rate)

/-- The first prescaler of a list whose compare value fits the timer's range, with that value (R101). -/
def firstFit (c : Config) (rate : Nat) : List Nat → Option (Nat × Nat)
  | [] => none
  | p :: ps =>
    if 1 ≤ compareValue c rate p ∧ compareValue c rate p ≤ c.timerMax then
      some (p, compareValue c rate p)
    else firstFit c rate ps

/-- The prescaler search of `ACQ.INIT` (R101). -/
def timerChoice (c : Config) (rate : Nat) : Option (Nat × Nat) :=
  firstFit c rate c.prescalers

/-- The value a finite table gives an argument, `other` where it has no row. -/
def tableValue {A : Type} (rows : List (Int × A)) (other : A) (v : Int) : A :=
  match rows.find? fun r => decide (r.1 = v) with
  | some r => r.2
  | none => other

/-- The configured `offDelayOf` (R9): no result is above the configured `offDelayMax`, which a well-formed
configuration keeps below `2^CNT_BITS - 1` (log entry 5). R9 and R168 give no delay for a negative stored value
(`PVAL_SIGNED`) in the form `direct`: DESIGN CHOICE (log entry 5), it is 0. -/
def offDelayOf (c : Config) (v : Int) : Nat :=
  let raw :=
    match c.offDelayOf with
    | .direct => v.toNat
    | .table rows other => tableValue rows other v
    | .abstract k => Config.delayConv k v
  min raw c.offDelayMax

/-- A configured conversion to `Real` (R9). -/
def realOf (c : Config) (f : RealConv) (v : Int) : RealNum :=
  match f with
  | .scale factor => (numOf c).mul ((numOf c).ofInt v) factor
  | .table rows other => tableValue rows other v
  | .abstract k => Config.realConv k v

/-- The configured `modeOf` (R9, D48: total, into Off, On, Auto). -/
def modeOf (c : Config) (v : Int) : Mode :=
  match c.modeOf with
  | .direct => if v = 0 then .off else if v = 1 then .on else .auto
  | .table rows other => tableValue rows other v
  | .abstract k => Config.modeConv k v

/-- A list of numbers in ascending order. R9 says "ascending" of `PRESCALERS` and not whether a divisor may
repeat: DESIGN CHOICE (log entry 21), it may; a repeated divisor never changes the first that fits. -/
def ascending : List Nat → Bool
  | [] => true
  | [_] => true
  | a :: b :: l => decide (a ≤ b) && ascending (b :: l)

/-- R9: `min <= default <= max` for every entry of the schema. -/
def schemaOrdered (l : List ParamSchema) : Bool :=
  l.all fun e => decide (e.minimum ≤ e.default) && decide (e.default ≤ e.maximum)

/-- R9: the five named indices are distinct and inside the table. -/
def indicesOk (c : Config) : Bool :=
  let l := [c.idxHigh, c.idxDelay, c.idxRatio, c.idxFreq, c.idxMode]
  l.all (fun i => decide (i < paramCount c)) && decide l.Nodup

/-- R10: every constraint of R9 holds and the prescaler search succeeds for `targetRate = FS`. -/
def wellFormed (c : Config) : Bool :=
  decide (1 ≤ c.rawBits) && decide (c.rawBits ≤ 16) && decide (c.rawBits + 4 ≤ c.accBits)
    && decide (0 < c.fs) && decide (0 < c.fClk) && decide (1 ≤ c.timerMax)
    && ascending c.prescalers && decide (c.prescalers ≠ [])
    && !(numOf c).le c.kappa (numOf c).zero && (numOf c).le (numOf c).zero c.hyst
    && decide (1 ≤ c.cntBits) && decide (1 ≤ c.blinkTicks) && decide (c.onDelay < 2 ^ c.cntBits - 1)
    && decide (c.offDelayMax < 2 ^ c.cntBits - 1)
    && decide (5 ≤ paramCount c) && schemaOrdered c.schema && indicesOk c
    && (decide (c.stride = 1) || decide (c.stride = 2) || decide (c.stride = 4))
    && decide (2 + c.stride * paramCount c ≤ c.nvmSize)
    && decide (1 < c.wdMult)
    && (timerChoice c c.fs).isSome

end Sys2Proof.Machine
end

