-- ==== Sys2Proof/Syntax.lean ====
section
/-! DEFINITION. The 23 operations of rule R85, one constructor for each row of the operation map. Every
constructor carries the context it is presented in (`CMD_CTX`, R80), since R87 gives a meaning (a
refusal) to an operation in a context its row does not allow. Operands are the fields of R82 as
presented: 32-bit words and Reals; their ranges are the meanings' concern (R83). -/

namespace Sys2Proof

/-- An operation with its context and operands (R85, R82). -/
inductive Instr where
  /-- `ACQ.INIT targetRate`, 0x10, R101. -/
  | acqInit (ctx : Ctx) (targetRate : Word)
  /-- `ACQ.SHUTDOWN`, 0x11, R102. -/
  | acqShutdown (ctx : Ctx)
  /-- `ACQ.PERIOD`, 0x12, R103. -/
  | acqPeriod (ctx : Ctx)
  /-- `ACQ.CONV raw`, 0x13, R104. -/
  | acqConv (ctx : Ctx) (raw : Word)
  /-- `ACQ.TAKE sel`, 0x14, R105. -/
  | acqTake (ctx : Ctx) (sel : Word)
  /-- `SPE.INIT centerFrequency`, 0x20, R122. -/
  | speInit (ctx : Ctx) (centerFrequency : RealNum)
  /-- `SPE.FEED sample`, 0x21, R123. -/
  | speFeed (ctx : Ctx) (sample : Word)
  /-- `SPE.RESET`, 0x22, R124. -/
  | speReset (ctx : Ctx)
  /-- `SPE.GETRESULT`, 0x23, R125. -/
  | speGetResult (ctx : Ctx)
  /-- `CSM.INIT mode`, 0x30, R141. -/
  | csmInit (ctx : Ctx) (mode : Word)
  /-- `CSM.PROCESS power, high, low, onDelay, offDelay`, 0x31, R142. -/
  | csmProcess (ctx : Ctx) (power high low : RealNum) (onDelay offDelay : Word)
  /-- `CSM.SHORT`, 0x32, R147. -/
  | csmShort (ctx : Ctx)
  /-- `CSM.LONG`, 0x33, R148. -/
  | csmLong (ctx : Ctx)
  /-- `CSM.TICK`, 0x34, R149. -/
  | csmTick (ctx : Ctx)
  /-- `PST.INIT`, 0x40, R161. -/
  | pstInit (ctx : Ctx)
  /-- `PST.RESETALL`, 0x41, R162. -/
  | pstResetAll (ctx : Ctx)
  /-- `PST.GET index`, 0x42, R163. -/
  | pstGet (ctx : Ctx) (index : Word)
  /-- `PST.SET index, value`, 0x43, R164. -/
  | pstSet (ctx : Ctx) (index value : Word)
  /-- `PST.GETRANGE index`, 0x44, R165. -/
  | pstGetRange (ctx : Ctx) (index : Word)
  /-- `SYS.WAIT`, 0x50, R181. -/
  | sysWait (ctx : Ctx)
  /-- `SYS.WDKICK`, 0x51, R183. -/
  | sysWdkick (ctx : Ctx)
  /-- `SYS.SERIAL`, 0x52, R184. -/
  | sysSerial (ctx : Ctx)
  /-- `SYS.RESTART`, 0x53, R230. -/
  | sysRestart (ctx : Ctx)
  deriving DecidableEq, Repr

/-- The context an operation is presented in, `CMD_CTX` (R80). -/
def Instr.ctx : Instr → Ctx
  | .acqInit c _ | .acqShutdown c | .acqPeriod c | .acqConv c _ | .acqTake c _ => c
  | .speInit c _ | .speFeed c _ | .speReset c | .speGetResult c => c
  | .csmInit c _ | .csmProcess c _ _ _ _ _ | .csmShort c | .csmLong c | .csmTick c => c
  | .pstInit c | .pstResetAll c | .pstGet c _ | .pstSet c _ _ | .pstGetRange c _ => c
  | .sysWait c | .sysWdkick c | .sysSerial c | .sysRestart c => c

end Sys2Proof
end

