-- ==== Sys2Proof/Decode.lean ====
section
/-! DEFINITION. The operation map (R85), the decoder of command records (R80 to R89), the encoder, the
binary form of a trace (R92) and the tokens of the textual form (R90). Decoding is total: what is no
operation is rejected by name. -/

namespace Sys2Proof

/-- The operand formats (R82). -/
inductive Format where
  | z
  | a
  | q
  | v
  | p
  deriving DecidableEq, Repr

/-- The contexts a row allows (R85 column ctx). -/
inductive Contexts where
  | fgOnly
  | intOnly
  | either
  | any
  deriving DecidableEq, Repr

/-- One row of the operation map (R85): `match = CMD_OP`, `mask = 0xFF` (R81). -/
structure OpRow where
  code : Byte
  mnemonic : String
  format : Format
  contexts : Contexts
  event : Bool
  deriving DecidableEq, Repr

/-- The complete operation map (R85): 23 rows. -/
def opMap : List OpRow :=
  [⟨0x10#8, "ACQ.INIT", .a, .either, false⟩,
   ⟨0x11#8, "ACQ.SHUTDOWN", .z, .either, false⟩,
   ⟨0x12#8, "ACQ.PERIOD", .z, .intOnly, true⟩,
   ⟨0x13#8, "ACQ.CONV", .a, .intOnly, true⟩,
   ⟨0x14#8, "ACQ.TAKE", .a, .fgOnly, false⟩,
   ⟨0x20#8, "SPE.INIT", .q, .fgOnly, false⟩,
   ⟨0x21#8, "SPE.FEED", .a, .fgOnly, false⟩,
   ⟨0x22#8, "SPE.RESET", .z, .fgOnly, false⟩,
   ⟨0x23#8, "SPE.GETRESULT", .z, .fgOnly, false⟩,
   ⟨0x30#8, "CSM.INIT", .a, .fgOnly, false⟩,
   ⟨0x31#8, "CSM.PROCESS", .p, .fgOnly, false⟩,
   ⟨0x32#8, "CSM.SHORT", .z, .fgOnly, true⟩,
   ⟨0x33#8, "CSM.LONG", .z, .fgOnly, true⟩,
   ⟨0x34#8, "CSM.TICK", .z, .fgOnly, false⟩,
   ⟨0x40#8, "PST.INIT", .z, .fgOnly, false⟩,
   ⟨0x41#8, "PST.RESETALL", .z, .fgOnly, false⟩,
   ⟨0x42#8, "PST.GET", .a, .fgOnly, false⟩,
   ⟨0x43#8, "PST.SET", .v, .fgOnly, false⟩,
   ⟨0x44#8, "PST.GETRANGE", .a, .fgOnly, false⟩,
   ⟨0x50#8, "SYS.WAIT", .z, .fgOnly, false⟩,
   ⟨0x51#8, "SYS.WDKICK", .z, .fgOnly, false⟩,
   ⟨0x52#8, "SYS.SERIAL", .z, .intOnly, true⟩,
   ⟨0x53#8, "SYS.RESTART", .z, .any, true⟩]

/-- The row of an operation code, if the code is in the map (R86). -/
def opRow (code : Byte) : Option OpRow :=
  opMap.find? fun r => r.code == code

/-- R90: the context a record has when none is written, the only one the row allows; `fg` for `ACQ.INIT`
and `ACQ.SHUTDOWN`. For `SYS.RESTART` (context any) the model takes `fg`: DESIGN CHOICE, log entry 8. -/
def impliedCtx (code : Byte) : Ctx :=
  match opRow code with
  | some r => if r.contexts = .intOnly then .int else .fg
  | none => .fg

/-! ### Decoding a command record -/

/-- Why a presentation is no operation. `illegalCommand` is R86; `fieldKind` a Real presented in an
integer field or an integer in a Real field, which no record of R82 is; `truncated` and `noRecord` a
binary trace (R92) that ends inside a record or does not begin with a code. -/
inductive DecodeError where
  | illegalCommand (code : Byte)
  | fieldKind
  | truncated
  | noRecord
  deriving DecidableEq, Repr

/-- Reads an integer field (R83). -/
def intField (f : Field) (k : Word → Except DecodeError Instr) : Except DecodeError Instr :=
  match f with
  | .int v => k v
  | .real _ => .error .fieldKind

/-- Reads a Real field (R83). -/
def realField (f : Field) (k : RealNum → Except DecodeError Instr) : Except DecodeError Instr :=
  match f with
  | .real q => k q
  | .int _ => .error .fieldKind

/-- The operation a record presents (R81: selected by all 8 bits of `CMD_OP` and by nothing else; R82,
R88: fields a format does not use are ignored). -/
def decode (r : Record) : Except DecodeError Instr :=
  match r.op with
  | 0x10#8 => intField r.opa fun a => .ok (.acqInit r.ctx a)
  | 0x11#8 => .ok (.acqShutdown r.ctx)
  | 0x12#8 => .ok (.acqPeriod r.ctx)
  | 0x13#8 => intField r.opa fun a => .ok (.acqConv r.ctx a)
  | 0x14#8 => intField r.opa fun a => .ok (.acqTake r.ctx a)
  | 0x20#8 => realField r.opa fun q => .ok (.speInit r.ctx q)
  | 0x21#8 => intField r.opa fun a => .ok (.speFeed r.ctx a)
  | 0x22#8 => .ok (.speReset r.ctx)
  | 0x23#8 => .ok (.speGetResult r.ctx)
  | 0x30#8 => intField r.opa fun a => .ok (.csmInit r.ctx a)
  | 0x31#8 =>
    realField r.opa fun power => realField r.opb fun high => realField r.opc fun low =>
      intField r.opd fun on => intField r.ope fun off => .ok (.csmProcess r.ctx power high low on off)
  | 0x32#8 => .ok (.csmShort r.ctx)
  | 0x33#8 => .ok (.csmLong r.ctx)
  | 0x34#8 => .ok (.csmTick r.ctx)
  | 0x40#8 => .ok (.pstInit r.ctx)
  | 0x41#8 => .ok (.pstResetAll r.ctx)
  | 0x42#8 => intField r.opa fun a => .ok (.pstGet r.ctx a)
  | 0x43#8 => intField r.opa fun a => intField r.opb fun b => .ok (.pstSet r.ctx a b)
  | 0x44#8 => intField r.opa fun a => .ok (.pstGetRange r.ctx a)
  | 0x50#8 => .ok (.sysWait r.ctx)
  | 0x51#8 => .ok (.sysWdkick r.ctx)
  | 0x52#8 => .ok (.sysSerial r.ctx)
  | 0x53#8 => .ok (.sysRestart r.ctx)
  | code => .error (.illegalCommand code)

/-- A record of format `Z`: every field 0 (R82: "should be presented as 0"). -/
def recordZ (ctx : Ctx) (op : Byte) : Record :=
  ⟨ctx, op, .int 0, .int 0, .int 0, .int 0, .int 0⟩

/-- A record of format `A` (R82). -/
def recordA (ctx : Ctx) (op : Byte) (a : Word) : Record :=
  ⟨ctx, op, .int a, .int 0, .int 0, .int 0, .int 0⟩

/-- A record of format `Q` (R82). -/
def recordQ (ctx : Ctx) (op : Byte) (q : RealNum) : Record :=
  ⟨ctx, op, .real q, .int 0, .int 0, .int 0, .int 0⟩

/-- A record of format `V` (R82). -/
def recordV (ctx : Ctx) (op : Byte) (a b : Word) : Record :=
  ⟨ctx, op, .int a, .int b, .int 0, .int 0, .int 0⟩

/-- A record of format `P` (R82). -/
def recordP (ctx : Ctx) (op : Byte) (power high low : RealNum) (on off : Word) : Record :=
  ⟨ctx, op, .real power, .real high, .real low, .int on, .int off⟩

/-- The record that presents an operation (R85). -/
def encode : Instr → Record
  | .acqInit c rate => recordA c 0x10#8 rate
  | .acqShutdown c => recordZ c 0x11#8
  | .acqPeriod c => recordZ c 0x12#8
  | .acqConv c raw => recordA c 0x13#8 raw
  | .acqTake c sel => recordA c 0x14#8 sel
  | .speInit c f => recordQ c 0x20#8 f
  | .speFeed c x => recordA c 0x21#8 x
  | .speReset c => recordZ c 0x22#8
  | .speGetResult c => recordZ c 0x23#8
  | .csmInit c mode => recordA c 0x30#8 mode
  | .csmProcess c power high low on off => recordP c 0x31#8 power high low on off
  | .csmShort c => recordZ c 0x32#8
  | .csmLong c => recordZ c 0x33#8
  | .csmTick c => recordZ c 0x34#8
  | .pstInit c => recordZ c 0x40#8
  | .pstResetAll c => recordZ c 0x41#8
  | .pstGet c index => recordA c 0x42#8 index
  | .pstSet c index value => recordV c 0x43#8 index value
  | .pstGetRange c index => recordA c 0x44#8 index
  | .sysWait c => recordZ c 0x50#8
  | .sysWdkick c => recordZ c 0x51#8
  | .sysSerial c => recordZ c 0x52#8
  | .sysRestart c => recordZ c 0x53#8

/-! ### The binary form of a trace (R92) -/

/-- One symbol of a binary trace (R92): a byte, a Real in its textual form (taken as one symbol), or the
suffix `@int`. -/
inductive TraceSym where
  | byte (b : Byte)
  | real (q : RealNum)
  | atInt
  deriving DecidableEq, Repr

/-- The four bytes of a 32-bit value, most significant first, as the vectors of
`95_test_vectors.md` print it. DEDUCED, log entry 8. -/
def wordSyms (w : Word) : List TraceSym :=
  [.byte (w.extractLsb' 24 8), .byte (w.extractLsb' 16 8), .byte (w.extractLsb' 8 8),
   .byte (w.extractLsb' 0 8)]

/-- One operand field in the binary trace (R92). -/
def fieldSyms : Field → List TraceSym
  | .int w => wordSyms w
  | .real q => [.real q]

/-- The fields a format uses, in the order of R82. -/
def usedFields (r : Record) : Format → List Field
  | .z => []
  | .a | .q => [r.opa]
  | .v => [r.opa, r.opb]
  | .p => [r.opa, r.opb, r.opc, r.opd, r.ope]

/-- R92: `CMD_CTX` "is written only for `ACQ.INIT` and `ACQ.SHUTDOWN`, as a suffix `@int` when it
is 1". -/
def ctxSyms (op : Byte) (ctx : Ctx) : List TraceSym :=
  if (op = 0x10#8 ∨ op = 0x11#8) ∧ ctx = .int then [.atInt] else []

/-- A record in the binary trace: the byte `CMD_OP`, then its used fields, then the context suffix (R92).
A code outside the map has no format, and stands alone. -/
def recordSyms (r : Record) : List TraceSym :=
  match opRow r.op with
  | none => [.byte r.op]
  | some row => .byte r.op :: ((usedFields r row.format).flatMap fieldSyms ++ ctxSyms r.op r.ctx)

/-- An operation in the binary trace (R92). -/
def encodeTrace (i : Instr) : List TraceSym :=
  recordSyms (encode i)

/-- Reads a 32-bit value of a binary trace, most significant byte first. -/
def readWord : List TraceSym → Option (Word × List TraceSym)
  | .byte a :: .byte b :: .byte c :: .byte d :: rest => some (a ++ b ++ c ++ d, rest)
  | _ => none

/-- Reads a Real of a binary trace. -/
def readReal : List TraceSym → Option (RealNum × List TraceSym)
  | .real q :: rest => some (q, rest)
  | _ => none

/-- Reads the context suffix (R92): only `ACQ.INIT` and `ACQ.SHUTDOWN` have one. -/
def readCtx (op : Byte) (l : List TraceSym) : Ctx × List TraceSym :=
  match l with
  | .atInt :: rest => if op = 0x10#8 ∨ op = 0x11#8 then (.int, rest) else (impliedCtx op, l)
  | _ => (impliedCtx op, l)

/-- Reads the fields of a format and the context suffix into a record. -/
def readFields (op : Byte) (f : Format) (l : List TraceSym) : Option (Record × List TraceSym) :=
  match f with
  | .z =>
    let (c, l) := readCtx op l
    some (recordZ c op, l)
  | .a => do
    let (a, l) ← readWord l
    let (c, l) := readCtx op l
    some (recordA c op a, l)
  | .q => do
    let (q, l) ← readReal l
    let (c, l) := readCtx op l
    some (recordQ c op q, l)
  | .v => do
    let (a, l) ← readWord l
    let (b, l) ← readWord l
    let (c, l) := readCtx op l
    some (recordV c op a b, l)
  | .p => do
    let (power, l) ← readReal l
    let (high, l) ← readReal l
    let (low, l) ← readReal l
    let (on, l) ← readWord l
    let (off, l) ← readWord l
    let (c, l) := readCtx op l
    some (recordP c op power high low on off, l)

/-- Reads one record of a binary trace (R92) and answers the symbols after it. -/
def readRecord : List TraceSym → Except DecodeError (Record × List TraceSym)
  | .byte op :: l =>
    match opRow op with
    | none => .error (.illegalCommand op)
    | some row =>
      match readFields op row.format l with
      | none => .error .truncated
      | some p => .ok p
  | _ => .error .noRecord

/-- Reads at most `fuel` operations of a binary trace, until its end. -/
def readTraceFuel : Nat → List TraceSym → Except DecodeError (List Instr)
  | _, [] => .ok []
  | 0, _ :: _ => .error .truncated
  | fuel + 1, l => do
    let (r, rest) ← readRecord l
    let i ← decode r
    let is ← readTraceFuel fuel rest
    .ok (i :: is)

/-- Reads a whole binary trace (R92). Every record takes at least one symbol, so the length is fuel
enough. -/
def readTrace (l : List TraceSym) : Except DecodeError (List Instr) :=
  readTraceFuel l.length l

/-- An operation whose context the binary form can say (R92): the implied one, or `@int` on `ACQ.INIT`
and `ACQ.SHUTDOWN`. -/
def Instr.traceable (i : Instr) : Bool :=
  match i with
  | .acqInit _ _ | .acqShutdown _ => true
  | i => i.ctx = impliedCtx (encode i).op

/-! ### The tokens of the textual form (R90) -/

/-- The operands fit a format (R82). -/
def fillFields (ctx : Ctx) (op : Byte) : Format → List Field → Option Record
  | .z, [] => some (recordZ ctx op)
  | .a, [.int a] => some (recordA ctx op a)
  | .q, [.real q] => some (recordQ ctx op q)
  | .v, [.int a, .int b] => some (recordV ctx op a b)
  | .p, [.real power, .real high, .real low, .int on, .int off] =>
    some (recordP ctx op power high low on off)
  | _, _ => none

/-- R90, from tokens: an optional context, a mnemonic and the operands' values give a record. The
characters of the numerals are not modelled (log entry 8). -/
def assemble (ctx : Option Ctx) (mnemonic : String) (operands : List Field) : Option Record :=
  match opMap.find? fun r => r.mnemonic == mnemonic with
  | none => none
  | some row => fillFields (ctx.getD (impliedCtx row.code)) row.code row.format operands

/-! ### The table's words -/

/-- The bits `[lo+31:lo]` of a word as an operand field. -/
def wordField (w lo : Nat) : Word :=
  BitVec.ofNat 32 (w >>> lo)

/-- The record an instruction word of spec/opcode_table.json spells: `CMD_OP` in bits 7..0 (R81), the
operand fields after it in the order of R82, 32 bits each, the bits above `nbits` 0. A Real field is the
integer its bits spell (R83 fixes no representation; log entry 8). The context is the one R90 and R92
imply, since R92 writes none. -/
def tableRecord (nbits w : Nat) : Record :=
  let w := w % 2 ^ nbits
  let op := BitVec.ofNat 8 w
  let ctx := impliedCtx op
  let real (lo : Nat) : RealNum := .ofRat (mkRat (wordField w lo).toNat 1)
  match opRow op with
  | none => recordZ ctx op
  | some row =>
    match row.format with
    | .z => recordZ ctx op
    | .a => recordA ctx op (wordField w 8)
    | .q => recordQ ctx op (real 8)
    | .v => recordV ctx op (wordField w 8) (wordField w 40)
    | .p => recordP ctx op (real 8) (real 40) (real 72) (wordField w 104) (wordField w 136)

/-- The operation the decoder reads from a word of spec/opcode_table.json, none where it refuses. -/
def decodeTableWord (nbits w : Nat) : Option Instr :=
  match decode (tableRecord nbits w) with
  | .ok i => some i
  | .error _ => none

end Sys2Proof
end

