-- ==== Sys2Proof/Machine/State.lean ====
section
/-! DEFINITION. The state of LM-AEC (R20) as plain data, the machine right after reset (R45), and the
reasons a step can stop (R14). The fields after `nvm` are the MODEL's own: they hold what the spec puts
outside the state of the block (R23) and what one deterministic step function must find in its
argument. -/

namespace Sys2Proof.Machine

/-- The non-volatile memory (R41, R60) as (address, byte) pairs in the canonical form `Memory.wf`. -/
abbrev Memory := List Host.Cell

/-- The state elements of ACQ (R20, R24 to R29). -/
structure Acq where
  /-- `ACQ.RUN`, 1 bit -/
  run : Bool
  /-- `ACQ.FE_EN`, 1 bit -/
  feEn : Bool
  /-- `ACQ.CONV_BUSY`, 1 bit -/
  convBusy : Bool
  /-- `ACQ.SUM`, signed, `ACC_BITS` bits -/
  sum : Element Int
  /-- `ACQ.CNT`, unsigned, 4 bits -/
  cnt : Element (BitVec 4)
  /-- `ACQ.VALUE`, signed, `DS_BITS` bits -/
  value : Element Int
  /-- `ACQ.NEW_VALUE`, 1 bit -/
  newValue : Element Bool
  /-- `ACQ.NEW_CONV`, 1 bit -/
  newConv : Element Bool
  /-- `ACQ.PRESC`, an element of `PRESCALERS` -/
  presc : Element Nat
  /-- `ACQ.CMP`, 1 to `TIMER_MAX` -/
  cmp : Element Nat
  deriving DecidableEq, Repr

/-- The state elements of SPE (R20, R31 to R33). -/
structure Spe where
  /-- `SPE.COEFF`, Real -/
  coeff : Element RealNum
  /-- `SPE.N`, `2^M` -/
  n : Element Nat
  /-- `SPE.S1`, Real -/
  s1 : Element RealNum
  /-- `SPE.S2`, Real -/
  s2 : Element RealNum
  /-- `SPE.CNT`, `M + 1` bits -/
  cnt : Element Nat
  /-- `SPE.RESULT`, Real -/
  result : Element RealNum
  deriving DecidableEq, Repr

/-- The state elements of CSM (R20, R34 to R37). -/
structure Csm where
  /-- `CSM.MODE`, 2 bits -/
  mode : Element Mode
  /-- `CSM.RD`, 1 bit -/
  rd : Element Decision
  /-- `CSM.ABOVE`, unsigned, `CNT_BITS` bits -/
  above : Element Nat
  /-- `CSM.BELOW`, unsigned, `CNT_BITS` bits -/
  below : Element Nat
  /-- `CSM.BLINK`, 0 to `2T - 1` -/
  blink : Element Nat
  deriving DecidableEq, Repr

/-- A `PST.RESETALL` in progress (R65, R162: a sequence of `NPARAM + 1` `MemWrite` steps): the index of
the next write, `NPARAM` for the checksum's, and whether `PST.INIT` began it (R161). -/
structure StoreJob where
  next : Nat
  fromInit : Bool
  deriving DecidableEq, Repr

/-- One entry of the run the agents present (R80: "a run of the block is one list of records"). `advance`
presents nothing: it lets the foreground operation in progress perform its next `MemWrite`, so that a
record after it (a restart) falls between two of them (R65). -/
inductive Input where
  | record (r : Record)
  | advance
  deriving DecidableEq, Repr

/-- What the console does inside an excursion (R186). -/
inductive ConsoleAct where
  | get (index : Word)
  | set (index value : Word)
  | getRange (index : Word)
  deriving DecidableEq, Repr

/-- The position of the foreground agent (R22): the line of the boot sequence (R232), of the loop (R187) or
of an excursion (R186) it presents next, with the values it has read so far. -/
inductive FgPos where
  | boot1
  | boot2
  | boot3 (freq : RealNum)
  | boot4 (freq : RealNum) (mode : Mode)
  | boot5 (freq : RealNum) (mode : Mode)
  | boot6 (mode : Mode)
  | boot7 (mode : Mode)
  | step1
  | feed (value : Int)
  | getResult
  | readRatio (power : RealNum)
  | readHigh (power ratio : RealNum)
  | readDelay (power ratio high : RealNum)
  | process (power ratio high : RealNum) (offDelay : Nat)
  | tick
  | resetWindow
  | kick
  | step5
  | excursion (acts : List ConsoleAct)
  | resume
  deriving DecidableEq, Repr

/-- What the block drives in one step besides its state: the response (R80; none while an operation goes
on) and the pulses `CONV_START` and `WD_KICK` (R39). -/
structure StepOutput where
  rsp : Option Response
  convStart : Bool
  wdKick : Bool
  deriving DecidableEq, Repr

/-- The machine's state: R20's elements, then the model's own fields. -/
structure State where
  /-- ACQ's elements -/
  acq : Acq
  /-- SPE's elements -/
  spe : Spe
  /-- CSM's elements -/
  csm : Csm
  /-- `SYS.ASLEEP`, 1 bit (R40) -/
  asleep : Bool
  /-- `NVM` (R41) -/
  nvm : Memory
  /-- MODEL's own: the configuration record, which no step changes (R9, R23; log entry 2) -/
  cfg : Config
  /-- MODEL's own: the store reset in progress (R65; log entry 9) -/
  job : Option StoreJob
  /-- MODEL's own: the rest of the run the agents present (R23, R80; log entry 10) -/
  pending : List Input
  /-- MODEL's own: the position of the foreground agent in its reference program (R22, R187, R230, R232;
  log entry 14) -/
  foreground : FgPos
  /-- MODEL's own: the response and pulses of the last step (R39, R80; log entry 11) -/
  out : StepOutput
  /-- MODEL's own: the number of completed steps, the index of the free values (log entry 6) -/
  epoch : Nat
  deriving DecidableEq, Repr

/-- ACQ at reset (R45): the three control bits 0, every other element unwritten. -/
def Acq.reset : Acq where
  run := false
  feEn := false
  convBusy := false
  sum := .unwritten
  cnt := .unwritten
  value := .unwritten
  newValue := .unwritten
  newConv := .unwritten
  presc := .unwritten
  cmp := .unwritten

/-- SPE at reset (R45): unwritten. -/
def Spe.reset : Spe where
  coeff := .unwritten
  n := .unwritten
  s1 := .unwritten
  s2 := .unwritten
  cnt := .unwritten
  result := .unwritten

/-- CSM at reset (R45): unwritten. -/
def Csm.reset : Csm where
  mode := .unwritten
  rd := .unwritten
  above := .unwritten
  below := .unwritten
  blink := .unwritten

/-- No response and no pulse. -/
def StepOutput.quiet : StepOutput where
  rsp := none
  convStart := false
  wdKick := false

/-- The machine right after power-on (R45), in the configuration TOY (log entry 2), its non-volatile
memory holding nothing but erased bytes (log entry 12), with nothing presented yet (log entry 10), the
foreground agent at the start of the boot sequence. -/
def State.reset : State where
  acq := Acq.reset
  spe := Spe.reset
  csm := Csm.reset
  asleep := false
  nvm := []
  cfg := Config.toy
  job := none
  pending := []
  foreground := .boot1
  out := StepOutput.quiet
  epoch := 0

/-- Why a step is not possible: the outcome *not enabled* of R14 and states with no enabled step. -/
inductive Fault where
  /-- An event whose enabling condition is false was presented: it "does not occur" (R14, R205, R209).
  Raised by `ACQ.PERIOD` and `ACQ.CONV`, and by `CSM.SHORT` and `CSM.LONG` while the foreground sleeps.
  Safe: the block has no such step. -/
  | eventNotEnabled
  /-- Nothing is presented and no operation is in progress: no agent steps (R189: not a termination).
  Raised by `step`, and by the reference foreground after a response its line does not read. Safe. -/
  | nothingPresented
  /-- An `advance` with no operation in progress: a run that is none. Raised by `step`. Safe. -/
  | nothingInProgress
  /-- An access to an offset outside `NVM[0 .. NVM_SIZE-1]`, which does not exist (R60); no operation
  forms one in a well-formed configuration (R61, R202). Raised by the memory operations. Safe. -/
  | offsetOutsideStore
  deriving DecidableEq, Repr

/-- Why an operation is refused: "the spec gives it no meaning: the model marks the run refused and no
claim holds of it" (R14, R203). Every one is safe: the run ends where a device would go on. -/
inductive Refusal where
  /-- Raised by no arm of this model: an instruction without a meaning. Safe. -/
  | notModelled (mnemonic : String)
  /-- The configuration is ill formed (R10, U1, U18). Raised by every operation. Safe. -/
  | illFormedConfiguration
  /-- A context the operation's row does not allow (R87, U17). Raised by every operation with a fixed
  context. Safe. -/
  | wrongContext
  /-- A foreground operation that is no event, while `SYS.ASLEEP = 1` (R182, R209, U27). Safe. -/
  | foregroundAsleep
  /-- A foreground operation inside another one (R72: "each completes before the next begins"). Safe. -/
  | operationInProgress
  /-- An operand outside the range its rule gives (R83, R88, U26; mode 3, U19). Safe. -/
  | operandOutOfRange
  /-- `ACQ.INIT` with `targetRate` not `FS` (R101, U18). Safe. -/
  | rateNotFS
  /-- A read of an unwritten element (R21, U8, U5), by the element's name. Safe. -/
  | unwrittenElement (name : String)
  /-- `SPE.FEED` on a completed window (R123 corner case (a), U4). Safe. -/
  | windowComplete
  /-- A store write while `ACQ.RUN = 1` (R167, R240, U23): presented then, or the next `MemWrite` of a store
  reset that an `ACQ.INIT` of the interrupt context has overtaken (log entry 9). Safe. -/
  | storeWhileRunning
  /-- A record with a Real in an integer field or the reverse, which is no record of R82. Raised by
  `step`. Safe. -/
  | malformedRecord
  deriving DecidableEq, Repr

end Sys2Proof.Machine
end

