-- ==== Sys2Proof/Machine/Operands.lean ====
section
/-! DEFINITION. How an operand field is read as an integer (R83), the ranges it is checked against, and
the conversions of R11. -/

namespace Sys2Proof.Machine

/-- A signed operand: the field carries `sext_32` of its value (R83). -/
def signedOperand (w : Word) : Int :=
  w.toInt

/-- An unsigned operand: the field carries `zext_32` of its value (R83). -/
def unsignedOperand (w : Word) : Nat :=
  w.toNat

/-- R83: a parameter value is signed when `PVAL_SIGNED`. -/
def valueOperand (c : Config) (w : Word) : Int :=
  if c.pvalSigned then signedOperand w else (unsignedOperand w : Int)

/-- R11: a signed element of width `w` holds a value in `[-2^(w-1), 2^(w-1) - 1]`. -/
def inSigned (w : Nat) (v : Int) : Bool :=
  decide (-(2 : Int) ^ (w - 1) ≤ v) && decide (v < (2 : Int) ^ (w - 1))

/-- R11: an unsigned element of width `w` holds a value in `[0, 2^w - 1]`. -/
def inUnsigned (w v : Nat) : Bool :=
  decide (v < 2 ^ w)

/-- R11 `sext_N`: the low `w` bits of `v` as two's complement. -/
def sext (w : Nat) (v : Int) : Int :=
  (BitVec.ofInt w v).toInt

/-- R11 `asr(v, k) = floor(v / 2^k)`. -/
def asr (v : Int) (k : Nat) : Int :=
  v / (2 : Int) ^ k

/-- The mode operand of `CSM.INIT` (R34, R141): 0 Off, 1 On, 2 Auto; any other is refused. -/
def modeOperand (w : Word) : Option Mode :=
  match unsignedOperand w with
  | 0 => some .off
  | 1 => some .on
  | 2 => some .auto
  | _ => none

/-- The code of a mode (R34). -/
def modeCode : Mode → Nat
  | .off => 0
  | .on => 1
  | .auto => 2

/-- `enc(v) = v mod 2^(8*STRIDE)` (R162). -/
def encodeValue (c : Config) (v : Int) : Nat :=
  (v % (2 : Int) ^ (8 * c.stride)).toNat

/-- A stored value read back (R62, R163): sign-extended from `8 * STRIDE` bits when `PVAL_SIGNED`. -/
def decodeValue (c : Config) (raw : Nat) : Int :=
  if c.pvalSigned then sext (8 * c.stride) raw else (raw : Int)

/-- A value the slots of the table can hold: what is read back is what was stored. -/
def storable (c : Config) (v : Int) : Bool :=
  if c.pvalSigned then inSigned (8 * c.stride) v
  else decide (0 ≤ v) && decide (v < (2 : Int) ^ (8 * c.stride))

end Sys2Proof.Machine
end

