-- ==== Sys2Proof/Machine/Flags.lean ====
section
/-! DEFINITION. The packed handoff flags and their selector (R30, R105), the counters' increments (R25,
R37, R146), the mode cycles (R147, R148) and the outputs the state drives (R38, R39, R151, R152). -/

namespace Sys2Proof.Machine

/-- `ACQ_FLAGS` (R30): bit 0 `NEW_VALUE`, bit 1 `NEW_CONV`. -/
def packFlags (newConv newValue : Bool) : Nat :=
  (if newConv then 2 else 0) + (if newValue then 1 else 0)

/-- Bit `k` of the selector of `ACQ.TAKE` (R105). -/
def selects (sel : Word) (k : Nat) : Bool :=
  sel.getLsbD k

/-- A result bit as bit 0 of its field (R84). -/
def resultBit (b : Bool) : RspField :=
  .bits 1 (if b then 1 else 0)

/-- `(ACQ.CNT + 1) mod 16` (R25, R104). -/
def nextConversion (c : BitVec 4) : BitVec 4 :=
  c + 1

/-- `inc(c) = (c + 1) mod 2^CNT_BITS` (R146). -/
def incCounter (c : Config) (n : Nat) : Nat :=
  (n + 1) % 2 ^ c.cntBits

/-- `(CSM.BLINK + 1) mod (2 * BLINK_TICKS)` (R149). -/
def nextBlink (c : Config) (b : Nat) : Nat :=
  (b + 1) % (2 * c.blinkTicks)

/-- The short-push cycle (R147). -/
def shortPush : Mode → Mode
  | .off => .on
  | .on => .off
  | .auto => .off

/-- The long-push cycle (R148). -/
def longPush : Mode → Mode
  | .off => .auto
  | .on => .auto
  | .auto => .on

/-- `RELAY_OUT` while `MODE`, `RD` and `BLINK` are written (R151). -/
def relayLevel : Mode → Decision → Bool
  | .on, _ => true
  | .off, _ => false
  | .auto, d => decide (d = .closed)

/-- `IND_OUT` while `MODE`, `RD` and `BLINK` are written (R152). -/
def indicatorLevel (c : Config) : Mode → Nat → Bool
  | .off, _ => false
  | .on, _ => true
  | .auto, blink => decide (blink < c.blinkTicks)

/-- The output `RELAY_OUT` (R38, R151): unspecified, a free value, while an element is unwritten. -/
def relayOut (s : State) : Bool :=
  match s.csm.mode, s.csm.rd, s.csm.blink with
  | .written m, .written d, .written _ => relayLevel m d
  | _, _, _ => Config.freeRelay s.epoch

/-- The output `IND_OUT` (R38, R152): unspecified, a free value, while an element is unwritten. -/
def indOut (s : State) : Bool :=
  match s.csm.mode, s.csm.rd, s.csm.blink with
  | .written m, .written _, .written b => indicatorLevel s.cfg m b
  | _, _, _ => Config.freeIndicator s.epoch

/-- The output `FE_OUT = ACQ.FE_EN` (R39). -/
def feOut (s : State) : Bool :=
  s.acq.feEn

/-- The pulse `CONV_START` of the last step (R39). -/
def convStart (s : State) : Bool :=
  s.out.convStart

/-- The pulse `WD_KICK` of the last step (R39). -/
def wdKick (s : State) : Bool :=
  s.out.wdKick

/-- The code `RSP_STATUS` of a status (R200). -/
def statusCode : Status → BitVec 4
  | .ok => 0
  | .indexOutOfRange _ => 1
  | .valueTooLarge _ _ => 2
  | .valueTooSmall _ _ => 3
  | .illegalCommand _ => 4

end Sys2Proof.Machine
end

