-- ==== Sys2Proof/Machine/Memory.lean ====
section
/-! DEFINITION. The non-volatile memory (R60 to R67): one byte, the little-endian accesses `MemRead` and
`MemWrite` (R13, R62), and the canonical form of the list that holds it. -/

namespace Sys2Proof.Machine

/-- What an address no entry lists reads as: the erased byte `FF` (DESIGN CHOICE, log entry 12). -/
def erasedByte : Byte :=
  0xFF#8

/-- The byte at an offset. -/
def readCell : Memory → Nat → Byte
  | [], _ => erasedByte
  | (a, b) :: m, x => if x = a then b else readCell m x

/-- The memory with one byte stored, in canonical form again. -/
def writeCell : Memory → Nat → Byte → Memory
  | [], x, v => if v = erasedByte then [] else [(x, v)]
  | (a, b) :: m, x, v =>
    if x < a then (if v = erasedByte then (a, b) :: m else (x, v) :: (a, b) :: m)
    else if x = a then (if v = erasedByte then m else (x, v) :: m)
    else (a, b) :: writeCell m x v

/-- Addresses strictly rising from `lo` on, no entry equal to the erased byte. -/
def wfFrom : Nat → Memory → Bool
  | _, [] => true
  | lo, (a, b) :: m => decide (lo ≤ a) && decide (b ≠ erasedByte) && wfFrom (a + 1) m

/-- The canonical form: addresses strictly rising, no entry an unlisted address would read as. -/
def Memory.wf (m : Memory) : Bool :=
  wfFrom 0 m

/-- Every listed address is an offset of the memory. -/
def Memory.inside (size : Nat) (m : Memory) : Bool :=
  m.all fun cell => decide (cell.1 < size)

/-- The `n` bytes at `a`, little-endian (R62). -/
def readLE (m : Memory) (a : Nat) : Nat → Nat
  | 0 => 0
  | n + 1 => (readCell m a).toNat + 256 * readLE m (a + 1) n

/-- The memory with the low `n` bytes of `v` stored at `a`, little-endian (R62). -/
def writeLE (m : Memory) (a : Nat) : Nat → Nat → Memory
  | 0, _ => m
  | n + 1, v => writeLE (writeCell m a (BitVec.ofNat 8 v)) (a + 1) n (v / 256)

/-- `MemRead(a, n)` (R13); none outside the memory. -/
def memRead (s : State) (a n : Nat) : Option Nat :=
  if a + n ≤ s.cfg.nvmSize then some (readLE s.nvm a n) else none

/-- `MemWrite(a, n, v)` (R13): the memory after it; none outside the memory. -/
def memWrite (s : State) (a n v : Nat) : Option Memory :=
  if a + n ≤ s.cfg.nvmSize then some (writeLE s.nvm a n v) else none

end Sys2Proof.Machine
end

