-- ==== Sys2Proof/Machine/Ops.lean ====
section
/-! DEFINITION. The shared operations: the named updates of the state, completing, raising a named error
(R201), the one trap (R211), the checks before an operation's own rule (R209), the read of a state element
(R21), and the steps of the store reset (R65, R162). -/

namespace Sys2Proof.Machine

/-- The outcome of one operation. -/
abbrev Result := Host.Outcome State Fault Refusal

/-! ### Named updates -/

/-- ACQ's elements replaced. -/
def State.withAcq (s : State) (a : Acq) : State :=
  { s with acq := a }

/-- SPE's elements replaced. -/
def State.withSpe (s : State) (p : Spe) : State :=
  { s with spe := p }

/-- CSM's elements replaced. -/
def State.withCsm (s : State) (c : Csm) : State :=
  { s with csm := c }

/-- `SYS.ASLEEP` written. -/
def State.withAsleep (s : State) (b : Bool) : State :=
  { s with asleep := b }

/-- The non-volatile memory replaced. -/
def State.withNvm (s : State) (m : Memory) : State :=
  { s with nvm := m }

/-- The operation in progress replaced. -/
def State.withJob (s : State) (j : Option StoreJob) : State :=
  { s with job := j }

/-- The rest of the run replaced. -/
def State.withPending (s : State) (l : List Input) : State :=
  { s with pending := l }

/-- The foreground agent moved to a position. -/
def State.withForeground (s : State) (p : FgPos) : State :=
  { s with foreground := p }

/-- What one step drives, and the step counted. -/
def State.withOut (s : State) (o : StepOutput) : State :=
  { s with out := o, epoch := s.epoch + 1 }

/-- "wakes on any interrupt" (R182): every `INT` event writes `SYS.ASLEEP <- 0`. -/
def State.wake (s : State) : State :=
  s.withAsleep false

/-! ### Ends of an operation (R14) -/

/-- The operation completes with status `OK`, result fields and pulses (R14, R39, R84). -/
def completeWith (s : State) (d0 d1 d2 : RspField) (convStart wdKick : Bool) : Result :=
  .next (s.withOut ⟨some ⟨.ok, d0, d1, d2⟩, convStart, wdKick⟩)

/-- The operation completes with status `OK` and result fields (R14, R84). -/
def complete (s : State) (d0 d1 d2 : RspField) : Result :=
  completeWith s d0 d1 d2 false false

/-- The operation completes and returns no data (R84). -/
def completed (s : State) : Result :=
  complete s .none .none .none

/-- TAKING A NAMED ERROR (R14, R201): the response is the status, its data fields are unspecified (R84,
U21: free values), no state element is written, and the next operation proceeds normally. There is no
handler, no vector and no return (R201, R210). -/
def raiseError (s : State) (st : Status) : Result :=
  .next (s.withOut
    ⟨some ⟨st, Config.freeResponse s.epoch 0, Config.freeResponse s.epoch 1,
      Config.freeResponse s.epoch 2⟩, false, false⟩)

/-- TAKING THE ONE TRAP (R211, R230): every state element takes its reset value (R45), `NVM` is not
written, an operation in progress is cut (R65), and control goes to the boot sequence: the foreground
agent's position becomes its start (R230, R232). There is no return from it and no cause register. The
configuration, what other agents go on presenting, and the step count are no state of the block and stay
(log entry 14). -/
def restartState (s : State) : State where
  acq := Acq.reset
  spe := Spe.reset
  csm := Csm.reset
  asleep := false
  nvm := s.nvm
  cfg := s.cfg
  job := none
  pending := s.pending
  foreground := .boot1
  out := s.out
  epoch := s.epoch

/-! ### Checks before an operation's own rule (R209) -/

/-- An operation of the foreground only (R85, R87), awake (R182), alone (R72). -/
def foregroundOp (ctx : Ctx) (s : State) (body : Result) : Result :=
  if wellFormed s.cfg = false then .refused .illFormedConfiguration
  else if ctx = .int then .refused .wrongContext
  else if s.asleep then .refused .foregroundAsleep
  else if s.job.isSome then .refused .operationInProgress
  else body

/-- A key event of the foreground (R85, R155): as an operation of the foreground, but while it sleeps the
event "is not enabled" (R14, R209) rather than refused. -/
def foregroundEvent (ctx : Ctx) (s : State) (body : Result) : Result :=
  if wellFormed s.cfg = false then .refused .illFormedConfiguration
  else if ctx = .int then .refused .wrongContext
  else if s.asleep then .fault .eventNotEnabled
  else if s.job.isSome then .refused .operationInProgress
  else body

/-- An operation of the interrupt context only (R85, R87). -/
def interruptOp (ctx : Ctx) (s : State) (body : Result) : Result :=
  if wellFormed s.cfg = false then .refused .illFormedConfiguration
  else if ctx = .fg then .refused .wrongContext
  else body

/-- An operation of either context (R101, R102): in `FG`, awake and alone. -/
def eitherOp (ctx : Ctx) (s : State) (body : Result) : Result :=
  if wellFormed s.cfg = false then .refused .illFormedConfiguration
  else if ctx = .fg ∧ s.asleep = true then .refused .foregroundAsleep
  else if ctx = .fg ∧ s.job.isSome = true then .refused .operationInProgress
  else body

/-- An event of any context, always enabled (R230). -/
def anyOp (s : State) (body : Result) : Result :=
  if wellFormed s.cfg = false then .refused .illFormedConfiguration
  else body

/-- The value of a state element: "reading one is refused" while it is unwritten (R21). -/
def readElement {α : Type} (e : Element α) (name : String) (k : α → Result) : Result :=
  match e with
  | .unwritten => .refused (.unwrittenElement name)
  | .written v => k v

/-- A flag that `ACQ.TAKE` reads only when its selector bit is set (R105). -/
def readSelected (selected : Bool) (e : Element Bool) (name : String) (k : Bool → Result) : Result :=
  if selected then readElement e name k else k false

/-! ### The store reset (R162), one `MemWrite` a step (R65) -/

/-- The schema entry of an index, none when `index >= NPARAM`. -/
def schemaAt (c : Config) (i : Nat) : Option ParamSchema :=
  c.schema[i]?

/-- A `MemWrite` as the step of an operation; an offset outside the memory does not exist (R60). -/
def storing (s : State) (a n v : Nat) (k : State → Result) : Result :=
  match memWrite s a n v with
  | none => .fault .offsetOutsideStore
  | some m => k (s.withNvm m)

/-- A `MemRead` as part of an operation. -/
def loading (s : State) (a n : Nat) (k : Nat → Result) : Result :=
  match memRead s a n with
  | none => .fault .offsetOutsideStore
  | some v => k v

/-- One step of `PST.RESETALL` (R162): the next default in index order, or last the checksum, after which
the operation completes (`PST.INIT` with `didReset = 1`, R161). -/
def storeStep (j : StoreJob) (s : State) : Result :=
  match schemaAt s.cfg j.next with
  | some e =>
    storing s (slot s.cfg j.next) s.cfg.stride (encodeValue s.cfg e.default) fun t =>
      .next ((t.withJob (some ⟨j.next + 1, j.fromInit⟩)).withOut StepOutput.quiet)
  | none =>
    storing s 0 2 (expectedChecksum s.cfg).toNat fun t =>
      complete (t.withJob none) (if j.fromInit then resultBit true else .none) .none .none

/-- The operation in progress goes on by one step; an ill-formed configuration steps nowhere (R10). The
spec checks `ACQ.RUN` where the operation is presented (R167) and says nothing of an `ACQ.INIT` of the
interrupt context that falls between two of its steps. DESIGN CHOICE (log entry 9): the next `MemWrite` is
refused there, as "Store writes occur only while `ACQ.RUN = 0`" (R240). -/
def continueStore (j : StoreJob) (s : State) : Result :=
  if wellFormed s.cfg = false then .refused .illFormedConfiguration
  else if s.acq.run then .refused .storeWhileRunning
  else storeStep j s

end Sys2Proof.Machine
end

