-- ==== Sys2Proof/Machine/Acquisition.lean ====
section
/-! DEFINITION. The meanings of the ACQ operations (`40_acquisition.md`, R101 to R105). -/

namespace Sys2Proof.Machine

/-- `ACQ.INIT targetRate` (R101). `ACQ.VALUE` and `SYS.ASLEEP` are not written. -/
def execAcqInit (ctx : Ctx) (targetRate : Word) (s : State) : Result :=
  eitherOp ctx s <|
    if unsignedOperand targetRate ≠ s.cfg.fs then .refused .rateNotFS
    else
      match timerChoice s.cfg (unsignedOperand targetRate) with
      | none => .refused .illFormedConfiguration
      | some (p, cmp) =>
        completed <| s.withAcq
          { s.acq with
            presc := .written p, cmp := .written cmp, run := true, feEn := false, convBusy := false,
            sum := .written 0, cnt := .written 0, newValue := .written false, newConv := .written false }

/-- `ACQ.SHUTDOWN` (R102). -/
def execAcqShutdown (ctx : Ctx) (s : State) : Result :=
  eitherOp ctx s <|
    completed <| s.withAcq { s.acq with run := false, feEn := false, convBusy := false }

/-- `ACQ.PERIOD` (R103), enabled only when `ACQ.RUN = 1`; an overrun changes nothing but `NEW_CONV` and
`ASLEEP`. -/
def execAcqPeriod (ctx : Ctx) (s : State) : Result :=
  interruptOp ctx s <|
    if s.acq.run = false then .fault .eventNotEnabled
    else completed (s.withAcq { s.acq with feEn := true, newConv := .written true }).wake

/-- What `ACQ.CONV` leaves in ACQ (R104): on the sixteenth conversion the decimated sample is published,
the sum cleared and the front end disabled; on any other the sum goes on. -/
def converted (a : Acq) (sum : Int) (cnt : BitVec 4) : Acq :=
  if cnt = 0 then
    { a with
      convBusy := false, cnt := .written cnt, value := .written (asr sum 2), newValue := .written true,
      sum := .written 0, feEn := false }
  else { a with convBusy := false, cnt := .written cnt, sum := .written sum }

/-- `ACQ.CONV raw` (R104), enabled only when `ACQ.RUN`, `ACQ.FE_EN` and `ACQ.CONV_BUSY` are 1. -/
def execAcqConv (ctx : Ctx) (raw : Word) (s : State) : Result :=
  interruptOp ctx s <|
    if (s.acq.run && s.acq.feEn && s.acq.convBusy) = false then .fault .eventNotEnabled
    else if inSigned s.cfg.rawBits (signedOperand raw) = false then .refused .operandOutOfRange
    else
      readElement s.acq.sum "ACQ.SUM" fun sum =>
        readElement s.acq.cnt "ACQ.CNT" fun cnt =>
          completed
            (s.withAcq (converted s.acq (sum + sext 16 (signedOperand raw)) (nextConversion cnt))).wake

/-- A selected flag after `ACQ.TAKE` (R105): cleared; a flag not selected is not written. -/
def takenFlag (selected : Bool) (e : Element Bool) : Element Bool :=
  if selected then .written false else e

/-- `ACQ.TAKE sel` (R105): the selected flags read and cleared in one step; the value delivered only when
the "new value" flag was taken, else `RSP_D1` is unspecified (U3, a free value). -/
def execAcqTake (ctx : Ctx) (sel : Word) (s : State) : Result :=
  foregroundOp ctx s <|
    if unsignedOperand sel ≥ 4 then .refused .operandOutOfRange
    else
      let t := s.withAcq
        { s.acq with
          newValue := takenFlag (selects sel 0) s.acq.newValue,
          newConv := takenFlag (selects sel 1) s.acq.newConv }
      readSelected (selects sel 0) s.acq.newValue "ACQ.NEW_VALUE" fun f0 =>
        readSelected (selects sel 1) s.acq.newConv "ACQ.NEW_CONV" fun f1 =>
          if f0 then
            readElement s.acq.value "ACQ.VALUE" fun v =>
              complete t (.bits 2 (packFlags f1 f0)) (.int (sext 32 v)) .none
          else complete t (.bits 2 (packFlags f1 f0)) (Config.freeResponse s.epoch 1) .none

end Sys2Proof.Machine
end

