-- ==== Sys2Proof/Machine/Control.lean ====
section
/-! DEFINITION. The meanings of the CSM operations (`42_control.md`, R141, R142, R147 to R149). -/

namespace Sys2Proof.Machine

/-- `CSM.INIT mode` (R141). -/
def execCsmInit (ctx : Ctx) (mode : Word) (s : State) : Result :=
  foregroundOp ctx s <|
    match modeOperand mode with
    | none => .refused .operandOutOfRange
    | some m =>
      completed <| s.withCsm ⟨.written m, .written .opened, .written 0, .written 0, .written 0⟩

/-- The Open branch of `CSM.PROCESS` (R142): only the high threshold is tested, inclusively. -/
def processOpen (c : Config) (k : Csm) (power high : RealNum) (above onDelay : Nat) : Csm :=
  if (numOf c).le high power then
    if onDelay < incCounter c above then
      { k with above := .written (incCounter c above), rd := .written .closed, below := .written 0 }
    else { k with above := .written (incCounter c above) }
  else if c.resetOnMiss then { k with above := .written 0 }
  else k

/-- The Closed branch of `CSM.PROCESS` (R142): only the low threshold is tested, inclusively. -/
def processClosed (c : Config) (k : Csm) (power low : RealNum) (below offDelay : Nat) : Csm :=
  if (numOf c).le power low then
    if offDelay < incCounter c below then
      { k with below := .written (incCounter c below), rd := .written .opened, above := .written 0 }
    else { k with below := .written (incCounter c below) }
  else if c.resetOnMiss then { k with below := .written 0 }
  else k

/-- `CSM.PROCESS power, high, low, onDelay, offDelay` (R142): one branch, chosen by the relay decision as
it was when the call began. -/
def execCsmProcess (ctx : Ctx) (power high low : RealNum) (onDelay offDelay : Word) (s : State) : Result :=
  foregroundOp ctx s <|
    if (inUnsigned s.cfg.cntBits (unsignedOperand onDelay)
        && inUnsigned s.cfg.cntBits (unsignedOperand offDelay)) = false then .refused .operandOutOfRange
    else
      readElement s.csm.rd "CSM.RD" fun rd =>
        readElement s.csm.above "CSM.ABOVE" fun above =>
          readElement s.csm.below "CSM.BELOW" fun below =>
            match rd with
            | .opened =>
              completed (s.withCsm (processOpen s.cfg s.csm power high above (unsignedOperand onDelay)))
            | .closed =>
              completed (s.withCsm (processClosed s.cfg s.csm power low below (unsignedOperand offDelay)))

/-- A mode change (R147, R148): the new mode, and the blink phase reset. -/
def changeMode (cycle : Mode → Mode) (s : State) : Result :=
  readElement s.csm.mode "CSM.MODE" fun m =>
    completed (s.withCsm { s.csm with mode := .written (cycle m), blink := .written 0 })

/-- `CSM.SHORT` (R147), an event: not enabled while the foreground sleeps (R209). -/
def execCsmShort (ctx : Ctx) (s : State) : Result :=
  foregroundEvent ctx s (changeMode shortPush s)

/-- `CSM.LONG` (R148), an event: not enabled while the foreground sleeps (R209). -/
def execCsmLong (ctx : Ctx) (s : State) : Result :=
  foregroundEvent ctx s (changeMode longPush s)

/-- `CSM.TICK` (R149). -/
def execCsmTick (ctx : Ctx) (s : State) : Result :=
  foregroundOp ctx s <|
    readElement s.csm.blink "CSM.BLINK" fun b =>
      completed (s.withCsm { s.csm with blink := .written (nextBlink s.cfg b) })

end Sys2Proof.Machine
end

