-- ==== Sys2Proof/Machine/Estimator.lean ====
section
/-! DEFINITION. The meanings of the SPE operations (`41_estimator.md`, R122 to R125). -/

namespace Sys2Proof.Machine

/-- `SPE.INIT centerFrequency` (R122): `COEFF` and `N`, nothing else. -/
def execSpeInit (ctx : Ctx) (centerFrequency : RealNum) (s : State) : Result :=
  foregroundOp ctx s <|
    completed <| s.withSpe
      { s.spe with
        coeff := .written ((numOf s.cfg).coeff centerFrequency s.cfg.fs),
        n := .written (windowLength s.cfg) }

/-- What `SPE.FEED` leaves in SPE (R123): both filter states advance, the counter increments, and the feed
that reaches the window length finalises the power from the two newest states. -/
def fed (c : Config) (p : Spe) (coeff s1 s2 : RealNum) (cnt n : Nat) (sample : Int) : Spe :=
  let s0 := filterState (numOf c) coeff s1 s2 ((numOf c).ofInt sample)
  { p with
    s2 := .written s1, s1 := .written s0, cnt := .written (cnt + 1),
    result := if cnt + 1 = n then .written (finalPower (numOf c) c.kappa coeff s0 s1) else p.result }

/-- `SPE.FEED sample` (R123); a feed on a completed window is refused (corner case (a), U4). -/
def execSpeFeed (ctx : Ctx) (sample : Word) (s : State) : Result :=
  foregroundOp ctx s <|
    if inSigned (dsBits s.cfg) (signedOperand sample) = false then .refused .operandOutOfRange
    else
      readElement s.spe.coeff "SPE.COEFF" fun coeff =>
        readElement s.spe.n "SPE.N" fun n =>
          readElement s.spe.s1 "SPE.S1" fun s1 =>
            readElement s.spe.s2 "SPE.S2" fun s2 =>
              readElement s.spe.cnt "SPE.CNT" fun cnt =>
                if cnt < n then
                  complete (s.withSpe (fed s.cfg s.spe coeff s1 s2 cnt n (signedOperand sample)))
                    (resultBit (decide (cnt + 1 = n))) .none .none
                else .refused .windowComplete

/-- `SPE.RESET` (R124): both accumulators and the counter; coefficient, length and result stay. -/
def execSpeReset (ctx : Ctx) (s : State) : Result :=
  foregroundOp ctx s <|
    completed <| s.withSpe
      { s.spe with
        s1 := .written (numOf s.cfg).zero, s2 := .written (numOf s.cfg).zero, cnt := .written 0 }

/-- `SPE.GETRESULT` (R125): the last finalised power; no state is written. -/
def execSpeGetResult (ctx : Ctx) (s : State) : Result :=
  foregroundOp ctx s <|
    readElement s.spe.result "SPE.RESULT" fun r => complete s (.real r) .none .none

end Sys2Proof.Machine
end

