-- ==== Sys2Proof/Machine/Store.lean ====
section
/-! DEFINITION. The meanings of the PST operations (`43_parameter_store.md`, R161 to R165). -/

namespace Sys2Proof.Machine

/-- R167: an operation that writes the store is refused while `ACQ.RUN = 1`. -/
def storeWriter (ctx : Ctx) (s : State) (body : Result) : Result :=
  foregroundOp ctx s <| if s.acq.run then .refused .storeWhileRunning else body

/-- `PST.INIT` (R161): a stored checksum that differs from `EXPECTED` begins a store reset, whose first
`MemWrite` is this step's (log entry 9); an equal one completes with `didReset = 0`. -/
def execPstInit (ctx : Ctx) (s : State) : Result :=
  storeWriter ctx s <|
    loading s 0 2 fun stored =>
      if stored ≠ (expectedChecksum s.cfg).toNat then storeStep ⟨0, true⟩ s
      else complete s (resultBit false) .none .none

/-- `PST.RESETALL` (R162): the first of its `NPARAM + 1` steps. -/
def execPstResetAll (ctx : Ctx) (s : State) : Result :=
  storeWriter ctx s (storeStep ⟨0, false⟩ s)

/-- `PST.GET index` (R163): the stored value, with no range check. -/
def execPstGet (ctx : Ctx) (index : Word) (s : State) : Result :=
  foregroundOp ctx s <|
    match schemaAt s.cfg (unsignedOperand index) with
    | none => raiseError s (.indexOutOfRange (unsignedOperand index))
    | some _ =>
      loading s (slot s.cfg (unsignedOperand index)) s.cfg.stride fun v =>
        complete s (.int (decodeValue s.cfg v)) .none .none

/-- `PST.SET index, value` (R164): index, then too large, then too small; the checksum is not
rewritten. -/
def execPstSet (ctx : Ctx) (index value : Word) (s : State) : Result :=
  storeWriter ctx s <|
    match schemaAt s.cfg (unsignedOperand index) with
    | none => raiseError s (.indexOutOfRange (unsignedOperand index))
    | some e =>
      if valueOperand s.cfg value > e.maximum then
        raiseError s (.valueTooLarge (unsignedOperand index) (valueOperand s.cfg value))
      else if valueOperand s.cfg value < e.minimum then
        raiseError s (.valueTooSmall (unsignedOperand index) (valueOperand s.cfg value))
      else
        storing s (slot s.cfg (unsignedOperand index)) s.cfg.stride
          (encodeValue s.cfg (valueOperand s.cfg value)) fun t => completed t

/-- `PST.GETRANGE index` (R165): the bounds and the label of an entry; no state is read. -/
def execPstGetRange (ctx : Ctx) (index : Word) (s : State) : Result :=
  foregroundOp ctx s <|
    match schemaAt s.cfg (unsignedOperand index) with
    | none => raiseError s (.indexOutOfRange (unsignedOperand index))
    | some e => complete s (.int e.minimum) (.int e.maximum) (.label e.label)

end Sys2Proof.Machine
end

