-- ==== Sys2Proof/Machine/System.lean ====
section
/-! DEFINITION. The meanings of the SYS operations (`44_system.md` R181, R183, R184;
`70_reset_and_hazards.md` R230). -/

namespace Sys2Proof.Machine

/-- Whether entering the wait starts a conversion (R181). -/
def startsConversion (a : Acq) : Bool :=
  a.run && a.feEn && !a.convBusy

/-- `SYS.WAIT` (R181): the foreground sleeps, and a conversion starts when the front end is enabled and
none is in progress; `CONV_START` pulses in that step. -/
def execSysWait (ctx : Ctx) (s : State) : Result :=
  foregroundOp ctx s <|
    completeWith
      ((s.withAcq { s.acq with convBusy := s.acq.convBusy || startsConversion s.acq }).withAsleep true)
      .none .none .none (startsConversion s.acq) false

/-- `SYS.WDKICK` (R183): no state is written; `WD_KICK` pulses. -/
def execSysWdkick (ctx : Ctx) (s : State) : Result :=
  foregroundOp ctx s (completeWith s .none .none .none false true)

/-- `SYS.SERIAL` (R184): always enabled; wakes the foreground, nothing else. -/
def execSysSerial (ctx : Ctx) (s : State) : Result :=
  interruptOp ctx s (completed s.wake)

/-- `SYS.RESTART` (R230): the one trap (R211), in any context, always enabled. -/
def execSysRestart (_ctx : Ctx) (s : State) : Result :=
  anyOp s (completed (restartState s))

end Sys2Proof.Machine
end

