-- ==== Sys2Proof/Machine/Dispatch.lean ====
section
/-! DEFINITION. One arm per operation (R85). -/

namespace Sys2Proof.Machine

def exec (i : Instr) (s : State) : Host.Outcome State Fault Refusal :=
  match i with
  | .acqInit ctx rate => Sys2Proof.Machine.execAcqInit ctx rate s
  | .acqShutdown ctx => Sys2Proof.Machine.execAcqShutdown ctx s
  | .acqPeriod ctx => Sys2Proof.Machine.execAcqPeriod ctx s
  | .acqConv ctx raw => Sys2Proof.Machine.execAcqConv ctx raw s
  | .acqTake ctx sel => Sys2Proof.Machine.execAcqTake ctx sel s
  | .speInit ctx freq => Sys2Proof.Machine.execSpeInit ctx freq s
  | .speFeed ctx sample => Sys2Proof.Machine.execSpeFeed ctx sample s
  | .speReset ctx => Sys2Proof.Machine.execSpeReset ctx s
  | .speGetResult ctx => Sys2Proof.Machine.execSpeGetResult ctx s
  | .csmInit ctx mode => Sys2Proof.Machine.execCsmInit ctx mode s
  | .csmProcess ctx power high low on off => Sys2Proof.Machine.execCsmProcess ctx power high low on off s
  | .csmShort ctx => Sys2Proof.Machine.execCsmShort ctx s
  | .csmLong ctx => Sys2Proof.Machine.execCsmLong ctx s
  | .csmTick ctx => Sys2Proof.Machine.execCsmTick ctx s
  | .pstInit ctx => Sys2Proof.Machine.execPstInit ctx s
  | .pstResetAll ctx => Sys2Proof.Machine.execPstResetAll ctx s
  | .pstGet ctx index => Sys2Proof.Machine.execPstGet ctx index s
  | .pstSet ctx index value => Sys2Proof.Machine.execPstSet ctx index value s
  | .pstGetRange ctx index => Sys2Proof.Machine.execPstGetRange ctx index s
  | .sysWait ctx => Sys2Proof.Machine.execSysWait ctx s
  | .sysWdkick ctx => Sys2Proof.Machine.execSysWdkick ctx s
  | .sysSerial ctx => Sys2Proof.Machine.execSysSerial ctx s
  | .sysRestart ctx => Sys2Proof.Machine.execSysRestart ctx s

end Sys2Proof.Machine
end

