-- ==== Sys2Proof/Machine/Fetch.lean ====
section
/-! DEFINITION. What a step finds in the run the agents present (R71, R72, R80): a record to execute, or
the next step of the foreground operation in progress. -/

namespace Sys2Proof.Machine

/-- A record that waits until the foreground operation in progress has ended (R72): one of the foreground
context, but for the restart, which may fall between its steps (R65, R212). -/
def waitsForForeground (r : Record) : Bool :=
  decide (r.ctx = .fg) && decide (r.op ≠ 0x53#8)

/-- What the next step is. -/
inductive Fetched where
  /-- execute this record; the run goes on after it -/
  | present (r : Record) (rest : List Input)
  /-- the operation in progress performs its next step; the run goes on with this -/
  | resume (j : StoreJob) (rest : List Input)
  /-- there is no step -/
  | stuck (why : Fault)
  deriving DecidableEq, Repr

/-- The next step of a state: the head of the run, unless it waits for the operation in progress. -/
def fetch (s : State) : Fetched :=
  match s.pending, s.job with
  | [], none => .stuck .nothingPresented
  | [], some j => .resume j []
  | .advance :: _, none => .stuck .nothingInProgress
  | .advance :: rest, some j => .resume j rest
  | .record r :: rest, none => .present r rest
  | .record r :: rest, some j =>
    if waitsForForeground r then .resume j (.record r :: rest) else .present r rest

/-- A record that is no operation: an illegal code answers `IllegalCommand` and writes no state (R86,
R209); a field of the wrong kind is no record of R82 (log entry 8). -/
def reject (s : State) (e : DecodeError) : Result :=
  match e with
  | .illegalCommand code =>
    if wellFormed s.cfg = false then .refused .illFormedConfiguration
    else raiseError s (.illegalCommand code)
  | _ => .refused .malformedRecord

/-- A table word as the whole run, with no operation in progress. -/
def placeWord (s : State) (nbits w : Nat) : State :=
  (s.withPending [.record (tableRecord nbits w)]).withJob none

end Sys2Proof.Machine
end

