-- ==== Sys2Proof/Machine/Step.lean ====
section
/-! DEFINITION. One step of the machine (R71), and where a test places an operation. -/

namespace Sys2Proof.Machine

/-- One step: the operation in progress goes on, or the next record of the run is decoded and executed. -/
def step (s : State) : Host.Outcome State Fault Refusal :=
  match fetch s with
  | .stuck why => .fault why
  | .resume j rest => continueStore j (s.withPending rest)
  | .present r rest =>
    match decode r with
    | .ok i => exec i (s.withPending rest)
    | .error e => reject (s.withPending rest) e

/-- The state with a table word placed where `step` finds its next operation: the whole run is that one
record (log entry 10). -/
def State.withFetchWord (s : State) (nbits w : Nat) : State :=
  placeWord s nbits w

end Sys2Proof.Machine
end

