-- ==== Sys2Proof/Machine/Foreground.lean ====
section
/-! DEFINITION. The reference foreground of the spec: the boot sequence (R232), the loop (R187) with the
console excursion (R186), and the other pseudo-operations of R91. "The loop is a reference program, not a
constraint of the machine" (R187): `step` takes any run, and never reads this file. What the agent `FG`
presents next is a function of its position, which a restart puts at the start of the boot sequence (R230).
-/

namespace Sys2Proof.Machine

/-- What waits at step 5 of the loop (R187), chosen by the environment (R155, R184). -/
inductive Request where
  | nothing
  | shortPush
  | longPush
  | console (acts : List ConsoleAct)
  deriving DecidableEq, Repr

/-- A response field as an integer. -/
def fieldInt : RspField → Option Int
  | .int v => some v
  | _ => none

/-- The bits a response field gives. -/
def fieldBits : RspField → Option Nat
  | .bits _ v => some v
  | _ => none

/-- A response field as a Real. -/
def fieldReal : RspField → Option RealNum
  | .real q => some q
  | _ => none

/-- A number as an operand word. R83 gives the field 32 bits and R9 no upper bound for `FS`, `ON_DELAY`,
`offDelayOf` or an index; what a caller presents for `2^32` or more is not said. DESIGN CHOICE (log
entry 22): the reference foreground drops the bits above 31. -/
def operandWord (n : Nat) : Word :=
  BitVec.ofNat 32 n

/-- The operation a console act presents. -/
def actInstr : ConsoleAct → Instr
  | .get i => .pstGet .fg i
  | .set i v => .pstSet .fg i v
  | .getRange i => .pstGetRange .fg i

/-- Steps 5 and 6 of the loop (R187): a key event, an excursion, or the wait. -/
def served : Request → Instr
  | .nothing => .sysWait .fg
  | .shortPush => .csmShort .fg
  | .longPush => .csmLong .fg
  | .console _ => .acqShutdown .fg

/-- Where the loop goes on after steps 5 and 6. -/
def afterServed : Request → FgPos
  | .nothing => .step1
  | .shortPush => .step5
  | .longPush => .step5
  | .console acts => .excursion acts

/-- The operation the foreground presents at a position (R187, R232); what waits matters at step 5. -/
def foregroundPresents (c : Config) (req : Request) : FgPos → Instr
  | .boot1 => .pstInit .fg
  | .boot2 => .pstGet .fg (operandWord c.idxFreq)
  | .boot3 _ => .pstGet .fg (operandWord c.idxMode)
  | .boot4 _ _ => .acqInit .fg (operandWord c.fs)
  | .boot5 freq _ => .speInit .fg freq
  | .boot6 _ => .speReset .fg
  | .boot7 mode => .csmInit .fg (operandWord (modeCode mode))
  | .step1 => .acqTake .fg 3
  | .feed v => .speFeed .fg (BitVec.ofInt 32 v)
  | .getResult => .speGetResult .fg
  | .readRatio _ => .pstGet .fg (operandWord c.idxRatio)
  | .readHigh _ _ => .pstGet .fg (operandWord c.idxHigh)
  | .readDelay _ _ _ => .pstGet .fg (operandWord c.idxDelay)
  | .process r ratio high offD =>
    .csmProcess .fg ((numOf c).mul r ratio) high ((numOf c).sub high c.hyst) (operandWord c.onDelay)
      (operandWord offD)
  | .tick => .csmTick .fg
  | .resetWindow => .speReset .fg
  | .kick => .sysWdkick .fg
  | .step5 => served req
  | .excursion [] => .acqInit .fg (operandWord c.fs)
  | .excursion (a :: _) => actInstr a
  | .resume => .speReset .fg

/-- The position after the operation of a position, from its response (R187, R232); none where the response
is not the one the line reads. `PST.INIT` has none yet when it begins a store reset. -/
def foregroundMoves (c : Config) (req : Request) (p : FgPos) (rsp : Option Response) : Option FgPos :=
  match p with
  | .boot1 => some .boot2
  | .boot2 => do some (.boot3 (realOf c c.freqOf (← fieldInt (← rsp).d0)))
  | .boot3 freq => do some (.boot4 freq (modeOf c (← fieldInt (← rsp).d0)))
  | .boot4 freq mode => some (.boot5 freq mode)
  | .boot5 _ mode => some (.boot6 mode)
  | .boot6 mode => some (.boot7 mode)
  | .boot7 _ => some .step1
  | .step1 => do
    if (← fieldBits (← rsp).d0) % 2 = 1 then some (.feed (← fieldInt (← rsp).d1)) else some .step5
  | .feed _ => do if (← fieldBits (← rsp).d0) % 2 = 1 then some .getResult else some .step5
  | .getResult => do some (.readRatio (← fieldReal (← rsp).d0))
  | .readRatio r => do some (.readHigh r (realOf c c.ratioOf (← fieldInt (← rsp).d0)))
  | .readHigh r ratio => do some (.readDelay r ratio (realOf c c.thrOf (← fieldInt (← rsp).d0)))
  | .readDelay r ratio high => do some (.process r ratio high (offDelayOf c (← fieldInt (← rsp).d0)))
  | .process _ _ _ _ => some .tick
  | .tick => some .resetWindow
  | .resetWindow => some .kick
  | .kick => some .step5
  | .step5 => some (afterServed req)
  | .excursion [] => some .resume
  | .excursion (_ :: acts) => some (.excursion acts)
  | .resume => some .step5

/-- One turn of the reference foreground: a store reset in progress goes on (R72), or the operation of its
position is executed and the position moves. -/
def foregroundTurn (req : Request) (s : State) : Result :=
  match s.job with
  | some j => continueStore j s
  | none =>
    match exec (foregroundPresents s.cfg req s.foreground) s with
    | .next t =>
      match foregroundMoves s.cfg req s.foreground t.out.rsp with
      | some p => .next (t.withForeground p)
      | none => .fault .nothingPresented
    | .fault f => .fault f
    | .refused f => .refused f

/-- `GROUP` (R91) with the sixteen raw values of `95_test_vectors.md` 2.1: a period, then a wait and a
conversion for each value. -/
def groupOps (raws : List Word) : List Instr :=
  .acqPeriod .int :: raws.flatMap fun r => [.sysWait .fg, .acqConv .int r]

/-- `CONSOLE.ENTER` (R91). -/
def consoleEnter : List Instr :=
  [.acqShutdown .fg]

/-- `CONSOLE.EXIT` (R91). -/
def consoleExit (c : Config) : List Instr :=
  [.acqInit .fg (operandWord c.fs), .speReset .fg]

/-- A console excursion as a trace (R186). -/
def excursionOps (c : Config) (acts : List ConsoleAct) : List Instr :=
  consoleEnter ++ acts.map actInstr ++ consoleExit c

end Sys2Proof.Machine
end

