-- ==== Sys2Proof/Safety.lean ====
section
/-! DEFINITION. The terms claims are stated in: the legal values of the state elements (R20, R24, R33,
R36, R37) with the relations between them, the block's own state apart from the model's fields, runs of
operations, and runs of steps. -/

namespace Sys2Proof

/-- The real number a sum of cosines denotes. -/
noncomputable def CosSum.toReal (x : CosSum) : ℝ :=
  (x.rational : ℝ) + (x.cosines.map fun t => (t.factor : ℝ) * Real.cos (2 * Real.pi * t.turn)).sum

/-- The real number a `RealNum` denotes (R121). -/
noncomputable def RealNum.toReal : RealNum → ℝ
  | .cosines x => x.toReal
  | .constant k => Config.constantWhole k + Real.ofDigits (Config.constantDigit k)
  | .sum x y => x.toReal + y.toReal
  | .difference x y => x.toReal - y.toReal
  | .product x y => x.toReal * y.toReal
  | .coefficient fc fs => 2 * Real.cos (2 * Real.pi * fc.toReal / fs)

/-- A state element that holds a value. -/
def Element.isWritten {α : Type} : Element α → Bool
  | .unwritten => false
  | .written _ => true

end Sys2Proof

namespace Sys2Proof.Machine

/-- ACQ's elements hold legal values in a configuration (R20, R24 to R29): once running, all that
`ACQ.INIT` writes is written; the front end is enabled only while running and a conversion in progress
only while the front end is enabled; the sum is a sum of `CNT` raw samples. -/
structure AcqLegal (c : Config) (a : Acq) : Prop where
  running : a.run = true →
    a.sum.isWritten ∧ a.cnt.isWritten ∧ a.newValue.isWritten ∧ a.newConv.isWritten
      ∧ a.presc.isWritten ∧ a.cmp.isWritten
  frontEnd : a.feEn = true → a.run = true
  busy : a.convBusy = true → a.feEn = true
  sumOfSamples : ∀ v, a.sum = .written v → ∃ k : BitVec 4, a.cnt = .written k
    ∧ -((k.toNat : Int) * 2 ^ (c.rawBits - 1)) ≤ v ∧ v ≤ (k.toNat : Int) * (2 ^ (c.rawBits - 1) - 1)
  valueFits : ∀ v, a.value = .written v → inSigned (dsBits c) v = true
  flagged : a.newValue = .written true → a.value.isWritten
  prescaler : ∀ p, a.presc = .written p → p ∈ c.prescalers
  compare : ∀ n, a.cmp = .written n → 1 ≤ n ∧ n ≤ c.timerMax

/-- SPE's elements hold legal values (R20, R31 to R33). -/
structure SpeLegal (c : Config) (p : Spe) : Prop where
  length : ∀ n, p.n = .written n → n = windowLength c
  counter : ∀ k, p.cnt = .written k → k ≤ windowLength c
  initTogether : p.coeff.isWritten = p.n.isWritten
  resetTogether : p.s1.isWritten = p.cnt.isWritten ∧ p.s2.isWritten = p.cnt.isWritten

/-- CSM's elements hold legal values (R20, R34 to R37): all written together by `CSM.INIT`, counters
inside `CNT_BITS`, the blink phase below `2T`. The mode is never 3: its type has no such value. -/
structure CsmLegal (c : Config) (k : Csm) : Prop where
  together : k.mode.isWritten = k.rd.isWritten ∧ k.above.isWritten = k.rd.isWritten
    ∧ k.below.isWritten = k.rd.isWritten ∧ k.blink.isWritten = k.rd.isWritten
  above : ∀ n, k.above = .written n → n < 2 ^ c.cntBits
  below : ∀ n, k.below = .written n → n < 2 ^ c.cntBits
  blink : ∀ n, k.blink = .written n → n < 2 * c.blinkTicks

/-- The non-volatile memory is in canonical form and lies inside its size (R60). -/
structure StoreLegal (c : Config) (m : Memory) : Prop where
  canonical : Memory.wf m = true
  inside : Memory.inside c.nvmSize m = true

/-- A store reset in progress is before its last write, and its foreground is awake (R162, R182). -/
def JobLegal (s : State) : Prop :=
  ∀ j, s.job = some j → j.next ≤ paramCount s.cfg ∧ s.asleep = false

/-- The legal states: the invariant of every step. -/
structure Legal (s : State) : Prop where
  config : wellFormed s.cfg = true
  acq : AcqLegal s.cfg s.acq
  spe : SpeLegal s.cfg s.spe
  csm : CsmLegal s.cfg s.csm
  store : StoreLegal s.cfg s.nvm
  job : JobLegal s

/-- The two states agree on every element of R20 (the block's own state). -/
def sameBlock (s t : State) : Prop :=
  t.acq = s.acq ∧ t.spe = s.spe ∧ t.csm = s.csm ∧ t.asleep = s.asleep ∧ t.nvm = s.nvm

/-- Every byte of the non-volatile memory reads the same. -/
def sameBytes (s t : State) : Prop :=
  ∀ a, readCell t.nvm a = readCell s.nvm a

/-- What follows a step: it goes on from the next state, and a fault or a refusal ends the run. -/
def andThen (r : Result) (k : State → Result) : Result :=
  match r with
  | .next t => k t
  | .fault f => .fault f
  | .refused f => .refused f

/-- Operations executed one after the other, with nothing between them. -/
def execAll : List Instr → State → Result
  | [], s => .next s
  | i :: is, s => andThen (exec i s) (execAll is)

/-- One step of the store reset in progress, if there is one (R65). -/
def storeOnce (s : State) : Result :=
  match s.job with
  | none => .next s
  | some j => continueStore j s

/-- `k` steps of the store reset in progress, or fewer when it ends (R162). -/
def storeSteps : Nat → State → Result
  | 0, s => .next s
  | k + 1, s => andThen (storeOnce s) (storeSteps k)

/-- An operation, and then the store reset it began, run to its end (R72: "each completes before the next
begins"). -/
def execWhole (i : Instr) (s : State) : Result :=
  andThen (exec i s) fun t => storeSteps (paramCount t.cfg + 1) t

/-- `k` turns of the reference foreground, with nothing waiting at step 5 of the loop (R187, R232). -/
def foregroundTurns : Nat → State → Result
  | 0, s => .next s
  | k + 1, s => andThen (foregroundTurn .nothing s) (foregroundTurns k)

/-- The foreground may present an operation: the configuration is well formed (R10), the foreground is awake
(R182) and no operation of it is in progress (R72). -/
abbrev fgReady (s : State) : Prop :=
  wellFormed s.cfg = true ∧ s.asleep = false ∧ s.job = none

/-- An operation of either context may be presented in a context (R101, R102). -/
abbrev readyIn (ctx : Ctx) (s : State) : Prop :=
  wellFormed s.cfg = true ∧ (ctx = .fg → s.asleep = false ∧ s.job = none)

/-- The state with the response `OK` and its result fields, and no pulse. -/
def answer (s : State) (d0 d1 d2 : RspField) : State :=
  s.withOut ⟨some ⟨.ok, d0, d1, d2⟩, false, false⟩

/-- The two newest filter states after feeds of elements of the carrier, from two states: the recurrence of
`SPE.FEED` over samples that need be no integers (R128). -/
def afterFeeds {R : Type} (N : Num R) (coeff : R) : List R → R × R → R × R
  | [], p => p
  | x :: xs, p => afterFeeds N coeff xs (filterState N coeff p.1 p.2 x, p.1)

/-- The power a window of samples is finalised to after a reset (R123, R126). -/
def windowPower {R : Type} (N : Num R) (kappa coeff : R) (xs : List R) : R :=
  let p := afterFeeds N coeff xs (N.zero, N.zero)
  finalPower N kappa coeff p.1 p.2

/-- A frequency set, the window reset, and samples fed (R131). -/
def feedOps (fc : RealNum) (xs : List Word) : List Instr :=
  .speInit .fg fc :: .speReset .fg :: xs.map (.speFeed .fg)

/-- The raw samples a trace converts, in order. -/
def rawSamples (is : List Instr) : List Int :=
  is.filterMap fun i =>
    match i with
    | .acqConv _ raw => some raw.toInt
    | _ => none

/-- An operation that stops or restarts a group of conversions: `ACQ.INIT`, `ACQ.SHUTDOWN`,
`SYS.RESTART`. -/
def endsGroup : Instr → Bool
  | .acqInit _ _ | .acqShutdown _ | .sysRestart _ => true
  | _ => false

/-- The calls of `CSM.PROCESS` with the same thresholds and delays, one for each power. -/
def processCalls (powers : List RealNum) (high low : RealNum) (on off : Word) : List Instr :=
  powers.map fun p => .csmProcess .fg p high low on off

/-- While the decision is Open the above-counter, while it is Closed the below-counter, is at most the
delay (R150). -/
def CountersInside (on off : Nat) (s : State) : Prop :=
  (s.csm.rd = .written .opened → ∀ n, s.csm.above = .written n → n ≤ on)
    ∧ (s.csm.rd = .written .closed → ∀ n, s.csm.below = .written n → n ≤ off)

/-- The status of the last response, when one was given. -/
def lastStatus (s : State) : Option Status :=
  s.out.rsp.map Response.status

end Sys2Proof.Machine
end

