-- ==== Sys2Proof/WellFormed.lean ====
section
/-! DEFINITION. What the operation map and the operand rules ask of a presented operation before its own
rule is read: an allowed context (R85, R87), reserved operand bits zero (R88), operands inside the ranges
a configuration gives them (R83). -/

namespace Sys2Proof

/-- R85, R87: the context is one the operation's row allows. -/
def Instr.contextAllowed : Instr → Bool
  | .acqInit _ _ | .acqShutdown _ | .sysRestart _ => true
  | .acqPeriod c | .acqConv c _ | .sysSerial c => c = .int
  | .acqTake c _ => c = .fg
  | .speInit c _ | .speFeed c _ | .speReset c | .speGetResult c => c = .fg
  | .csmInit c _ | .csmProcess c _ _ _ _ _ | .csmShort c | .csmLong c | .csmTick c => c = .fg
  | .pstInit c | .pstResetAll c | .pstGet c _ | .pstSet c _ _ | .pstGetRange c _ => c = .fg
  | .sysWait c | .sysWdkick c => c = .fg

/-- R88: `OPA[31:2]` of `ACQ.TAKE` and of `CSM.INIT` are 0, and the mode is not the reserved 3. -/
def Instr.reservedBitsClear : Instr → Bool
  | .acqTake _ sel => sel.toNat < 4
  | .csmInit _ mode => mode.toNat < 3
  | _ => true

/-- R83, R101, R104, R123, R142: the operands whose range the configuration fixes are inside it. -/
def Instr.operandsInRange (c : Config) : Instr → Bool
  | .acqInit _ rate => rate.toNat = c.fs
  | .acqConv _ raw => -(2 : Int) ^ (c.rawBits - 1) ≤ raw.toInt ∧ raw.toInt < (2 : Int) ^ (c.rawBits - 1)
  | .speFeed _ x => -(2 : Int) ^ (c.accBits - 3) ≤ x.toInt ∧ x.toInt < (2 : Int) ^ (c.accBits - 3)
  | .csmProcess _ _ _ _ on off => on.toNat < 2 ^ c.cntBits ∧ off.toNat < 2 ^ c.cntBits
  | _ => true

/-- A presented operation that no rule of `30_encoding.md` refuses (R83, R87, R88). -/
def Instr.wellFormed (c : Config) (i : Instr) : Bool :=
  i.contextAllowed && i.reservedBitsClear && i.operandsInRange c

end Sys2Proof
end

