-- ==== Sys2Proof/Certificates/Slice0/Obligations.lean ====
section
/-! DEFINITION. The statements for the provers. Each names the rule or section of spec/ it rests on. Where a
clause rests on a choice of the model, its docstring says so and names the log entry. -/

open Sys2Proof Sys2Proof.Machine

/-! ### Encoding, decoding, fetching -/

/-- Seven words of the operation map decode to the operation they stand for, and the unused code `0x15` to none
(R85). How a table word is laid out, the context it implies and the reading of a Real field as an integer are
the model's (log entry 8). -/
def Obligations.TableWordsDecode : Prop :=
  decodeTableWord 8 0x11 = some (.acqShutdown .fg)
    ∧ decodeTableWord 8 0x13 = some (.acqConv .int 0)
    ∧ decodeTableWord 8 0x22 = some (.speReset .fg)
    ∧ decodeTableWord 8 0x31 = some (.csmProcess .fg (.ofRat 0) (.ofRat 0) (.ofRat 0) 0 0)
    ∧ decodeTableWord 8 0x43 = some (.pstSet .fg 0 0)
    ∧ decodeTableWord 8 0x52 = some (.sysSerial .int)
    ∧ decodeTableWord 8 0x53 = some (.sysRestart .fg)
    ∧ decodeTableWord 8 0x15 = none

/-- R92: a trace written in binary form reads back as itself, whatever the operations and every operand.
The byte order inside a 32-bit value is the model's reading (log entry 8). -/
def Obligations.TraceRoundTrip : Prop :=
  ∀ is : List Instr, (∀ i ∈ is, i.traceable = true) → readTrace (is.flatMap encodeTrace) = .ok is

/-- R86: a code outside the operation map answers `IllegalCommand` with the code, and writes no state; the
codes outside the map are those the rule lists; no code of the map is illegal. -/
def Obligations.IllegalCodesAnswerAndWriteNothing : Prop :=
  (∀ (s : State) (r : Record) (rest : List Input),
      wellFormed s.cfg = true → s.job = none → s.pending = .record r :: rest → opRow r.op = none →
      ∃ t, step s = .next t ∧ lastStatus t = some (.illegalCommand r.op) ∧ sameBlock s t
        ∧ t.pending = rest ∧ t.cfg = s.cfg ∧ t.job = none ∧ t.foreground = s.foreground)
    ∧ (∀ op : Byte, opRow op = none ↔
        (op.toNat / 16 = 0 ∨ 6 ≤ op.toNat / 16
          ∨ ((op.toNat / 16 = 1 ∨ op.toNat / 16 = 3 ∨ op.toNat / 16 = 4) ∧ 5 ≤ op.toNat % 16)
          ∨ ((op.toNat / 16 = 2 ∨ op.toNat / 16 = 5) ∧ 4 ≤ op.toNat % 16)))
    ∧ (∀ r : Record, decode r = .error (.illegalCommand r.op) ↔ opRow r.op = none)

/-- R88: operand fields a format does not use change nothing; the reserved bits of `ACQ.TAKE` and
`CSM.INIT` and the reserved mode are refused; an operand outside its range is refused. -/
def Obligations.UnusedFieldsIgnoredBadOperandsRefused : Prop :=
  (∀ (r r' : Record) (row : OpRow), opRow r.op = some row → r'.ctx = r.ctx → r'.op = r.op →
      usedFields r' row.format = usedFields r row.format → decode r' = decode r)
    ∧ (∀ (s : State) (sel : Word), fgReady s → 4 ≤ sel.toNat →
        exec (.acqTake .fg sel) s = .refused .operandOutOfRange)
    ∧ (∀ (s : State) (mode : Word), fgReady s → 3 ≤ mode.toNat →
        exec (.csmInit .fg mode) s = .refused .operandOutOfRange)
    ∧ (∀ (s : State) (i : Instr), fgReady s → i.contextAllowed = true → i.operandsInRange s.cfg = false →
        (∀ c raw, i = .acqConv c raw → s.acq.run = true ∧ s.acq.feEn = true ∧ s.acq.convBusy = true) →
        exec i s = .refused .operandOutOfRange ∨ exec i s = .refused .rateNotFS)

/-- A step runs the operation that the record at the head of the run decodes to, on the state whose run
goes on after it (R71, R80); while a store reset is in progress, only a record that does not wait for the
foreground (R65, R72). -/
def Obligations.StepRunsTheDecodedOperation : Prop :=
  ∀ (s : State) (r : Record) (rest : List Input) (i : Instr), s.pending = .record r :: rest →
    (s.job = none ∨ waitsForForeground r = false) → decode r = .ok i →
    step s = exec i (s.withPending rest)

/-- While a store reset is in progress the next step is its next `MemWrite`, unless a record of another
agent or the restart comes first (R65, R72). How the run says so is the model's, and so is that the `MemWrite`
is refused once an `ACQ.INIT` of the interrupt context has set `ACQ.RUN` (log entry 9). -/
def Obligations.StepResumesTheStoreReset : Prop :=
  ∀ (s : State) (j : StoreJob), wellFormed s.cfg = true → s.job = some j →
    (s.acq.run = false →
      (s.pending = [] → step s = storeStep j s)
        ∧ (∀ rest, s.pending = .advance :: rest → step s = storeStep j (s.withPending rest))
        ∧ (∀ r rest, s.pending = .record r :: rest → waitsForForeground r = true →
          step s = storeStep j s))
      ∧ (s.acq.run = true →
        (s.pending = [] ∨ (∃ rest, s.pending = .advance :: rest)
          ∨ ∃ r rest, s.pending = .record r :: rest ∧ waitsForForeground r = true) →
        step s = .refused .storeWhileRunning)

/-! ### Checks that come before every operation's rule -/

/-- R87: an operation presented in a context its row does not allow is refused. -/
def Obligations.WrongContextIsRefused : Prop :=
  ∀ (i : Instr) (s : State) (row : OpRow), wellFormed s.cfg = true → opRow (encode i).op = some row →
    (row.contexts = .fgOnly ∧ i.ctx = .int ∨ row.contexts = .intOnly ∧ i.ctx = .fg) →
    exec i s = .refused .wrongContext

/-- R182, R209: while the foreground sleeps no operation of the context `FG` is performed (the restart, an event
of the environment, apart): a key event is not enabled, any other is refused (the form of both: log entry 13);
every `INT` event wakes it; a wake-up is not remembered: a wait always sleeps. -/
def Obligations.SleepingForegroundPresentsNothing : Prop :=
  (∀ (i : Instr) (s : State) (row : OpRow), wellFormed s.cfg = true → s.asleep = true →
      opRow (encode i).op = some row → row.contexts = .fgOnly ∨ row.contexts = .either → i.ctx = .fg →
      exec i s = if row.event then .fault .eventNotEnabled else .refused .foregroundAsleep)
    ∧ (∀ (i : Instr) (s t : State) (row : OpRow), opRow (encode i).op = some row →
        row.contexts = .intOnly → exec i s = .next t → t.asleep = false)
    ∧ (∀ (c : Ctx) (s t : State), exec (.sysWait c) s = .next t → t.asleep = true)

/-- R10: an ill-formed configuration has no step, and every operation is refused in it. -/
def Obligations.IllFormedConfigurationHasNoStep : Prop :=
  ∀ s : State, wellFormed s.cfg = false →
    (∀ i, exec i s = .refused .illFormedConfiguration) ∧ ∀ t, step s ≠ .next t

/-- R201: an operation that raises an error has written no state. R214: an operation of the interrupt
context has no status but `OK`. -/
def Obligations.ErrorsWriteNoState : Prop :=
  (∀ (i : Instr) (s t : State) (st : Status), exec i s = .next t → lastStatus t = some st → st ≠ .ok →
      sameBlock s t ∧ t.cfg = s.cfg ∧ t.job = s.job ∧ t.pending = s.pending ∧ t.foreground = s.foreground)
    ∧ (∀ (i : Instr) (s t : State), i.ctx = .int → exec i s = .next t → lastStatus t = some .ok)

/-! ### ACQ -/

/-- `ACQ.INIT` (R101): the first prescaler whose compare value fits, acquisition running, the group
discarded, both flags clear, `ACQ.VALUE` and `SYS.ASLEEP` untouched; a rate other than `FS` is refused. That a
prescaler 0, which no rule excludes, has the quotient 0 and never fits is the model's (log entry 21). -/
def Obligations.AcqInitStartsAcquisition : Prop :=
  (∀ (ctx : Ctx) (rate : Word) (s : State), readyIn ctx s → rate.toNat = s.cfg.fs →
      ∃ before p after, s.cfg.prescalers = before ++ p :: after
        ∧ (∀ q ∈ before, ¬ (1 ≤ s.cfg.fClk / (q * s.cfg.fs) ∧ s.cfg.fClk / (q * s.cfg.fs) ≤ s.cfg.timerMax))
        ∧ 1 ≤ s.cfg.fClk / (p * s.cfg.fs) ∧ s.cfg.fClk / (p * s.cfg.fs) ≤ s.cfg.timerMax
        ∧ exec (.acqInit ctx rate) s = .next (answer (s.withAcq
            { run := true, feEn := false, convBusy := false, sum := .written 0, cnt := .written 0,
              value := s.acq.value, newValue := .written false, newConv := .written false,
              presc := .written p, cmp := .written (s.cfg.fClk / (p * s.cfg.fs)) }) .none .none .none))
    ∧ (∀ (ctx : Ctx) (rate : Word) (s : State), readyIn ctx s → rate.toNat ≠ s.cfg.fs →
        exec (.acqInit ctx rate) s = .refused .rateNotFS)

/-- `ACQ.SHUTDOWN` (R102): the three control bits 0, everything else as it was. -/
def Obligations.AcqShutdownClearsTheControlBits : Prop :=
  ∀ (ctx : Ctx) (s : State), readyIn ctx s →
    exec (.acqShutdown ctx) s = .next (answer
      (s.withAcq { s.acq with run := false, feEn := false, convBusy := false }) .none .none .none)

/-- `ACQ.PERIOD` (R103): enabled exactly while running; sets the front end and `NEW_CONV`, wakes the
foreground, and changes nothing else (an overrun included). That an event not enabled ends the run as a
fault is the model's form of "does not occur" (log entry 13). -/
def Obligations.AcqPeriodEnablesTheFrontEnd : Prop :=
  ∀ s : State, wellFormed s.cfg = true →
    (s.acq.run = true → exec (.acqPeriod .int) s = .next (answer
        ((s.withAcq { s.acq with feEn := true, newConv := .written true }).withAsleep false)
        .none .none .none))
      ∧ (s.acq.run = false → exec (.acqPeriod .int) s = .fault .eventNotEnabled)

/-- `ACQ.CONV` (R104): enabled exactly while running with a conversion in progress; the sample is added;
the sixteenth publishes the floor of a quarter of the sum, raises `NEW_VALUE`, clears the sum and disables
the front end; any other stores the sum. -/
def Obligations.AcqConvAccumulatesAndPublishes : Prop :=
  ∀ (raw : Word) (s : State), wellFormed s.cfg = true →
    (∀ (sum : Int) (cnt : BitVec 4), s.acq.run = true → s.acq.feEn = true → s.acq.convBusy = true →
        -(2 : Int) ^ (s.cfg.rawBits - 1) ≤ raw.toInt → raw.toInt < (2 : Int) ^ (s.cfg.rawBits - 1) →
        s.acq.sum = .written sum → s.acq.cnt = .written cnt →
        exec (.acqConv .int raw) s = .next (answer ((s.withAcq
          (if cnt = 15 then
            { s.acq with
              convBusy := false, cnt := .written 0, value := .written ((sum + raw.toInt) / 4),
              newValue := .written true, sum := .written 0, feEn := false }
          else
            { s.acq with
              convBusy := false, cnt := .written (cnt + 1), sum := .written (sum + raw.toInt) })).withAsleep
          false) .none .none .none))
      ∧ (s.acq.run = false ∨ s.acq.feEn = false ∨ s.acq.convBusy = false →
          exec (.acqConv .int raw) s = .fault .eventNotEnabled)

/-- `ACQ.TAKE` (R105): the selected flags are answered as `RSP_D0[1:0]` and cleared in one step; the value comes
with a taken `NEW_VALUE` and is otherwise unspecified (a free value, log entry 6); an unwritten flag is refused. -/
def Obligations.AcqTakeReadsAndClears : Prop :=
  (∀ (s : State) (sel : Word) (n0 n1 : Bool) (v : Int), fgReady s → sel.toNat < 4 →
      (sel.getLsbD 0 = true → s.acq.newValue = .written n0) →
      (sel.getLsbD 1 = true → s.acq.newConv = .written n1) →
      (sel.getLsbD 0 = true → n0 = true → s.acq.value = .written v) →
      exec (.acqTake .fg sel) s = .next (answer (s.withAcq
        { s.acq with
          newValue := if sel.getLsbD 0 then .written false else s.acq.newValue,
          newConv := if sel.getLsbD 1 then .written false else s.acq.newConv })
        (.bits 2 ((if sel.getLsbD 1 && n1 then 2 else 0) + (if sel.getLsbD 0 && n0 then 1 else 0)))
        (if sel.getLsbD 0 && n0 then .int (BitVec.ofInt 32 v).toInt else Config.freeResponse s.epoch 1)
        .none))
    ∧ (∀ (s : State) (sel : Word), fgReady s → sel.toNat < 4 →
        sel.getLsbD 0 = true ∧ s.acq.newValue = .unwritten
          ∨ sel.getLsbD 1 = true ∧ s.acq.newConv = .unwritten →
        ∃ name, exec (.acqTake .fg sel) s = .refused (.unwrittenElement name))

/-- R106: from an empty sum and count, the sixteenth conversion of any trace without `ACQ.INIT`,
`ACQ.SHUTDOWN` and restart publishes the floor of a quarter of the sixteen samples' sum, sets `NEW_VALUE`,
and leaves count and sum 0 and the front end off. -/
def Obligations.SixteenConversionsPublishTheirSum : Prop :=
  ∀ (s t : State) (is : List Instr) (ctx : Ctx) (raw : Word),
    s.acq.sum = .written 0 → s.acq.cnt = .written 0 → (∀ i ∈ is, endsGroup i = false) →
    (rawSamples is).length = 15 → execAll (is ++ [.acqConv ctx raw]) s = .next t →
    t.acq.value = .written (((rawSamples is).sum + raw.toInt) / 4) ∧ t.acq.newValue = .written true
      ∧ t.acq.cnt = .written 0 ∧ t.acq.sum = .written 0 ∧ t.acq.feEn = false ∧ t.acq.convBusy = false

/-- R106: a period and sixteen waits and conversions complete, whatever the sixteen samples; before the
sixteenth the "new value" flag is as it was; sixteen equal samples `k` publish `4k`. -/
def Obligations.GroupCompletesAndFlagsOnce : Prop :=
  ∀ (s : State) (raws : List Word), fgReady s → s.acq.run = true → s.acq.convBusy = false →
    s.acq.sum = .written 0 → s.acq.cnt = .written 0 →
    (∀ w ∈ raws, -(2 : Int) ^ (s.cfg.rawBits - 1) ≤ w.toInt ∧ w.toInt < (2 : Int) ^ (s.cfg.rawBits - 1)) →
    (raws.length < 16 → ∃ t, execAll (groupOps raws) s = .next t ∧ t.acq.newValue = s.acq.newValue
        ∧ t.acq.value = s.acq.value)
      ∧ (raws.length = 16 → ∃ t, execAll (groupOps raws) s = .next t ∧ t.acq.newValue = .written true
        ∧ t.acq.value = .written ((raws.map BitVec.toInt).sum / 4)
        ∧ ∀ k, (∀ w ∈ raws, w.toInt = k) → t.acq.value = .written (4 * k))

/-- R110: after `ACQ.SHUTDOWN` neither event is enabled until an `ACQ.INIT`; after an `ACQ.INIT` a
conversion completes only after a period and then a wait. -/
def Obligations.NoStaleCompletion : Prop :=
  (∀ (ctx : Ctx) (is : List Instr) (s t : State), (∀ i ∈ is, ∀ c rate, i ≠ .acqInit c rate) →
      execAll (.acqShutdown ctx :: is) s = .next t →
      exec (.acqPeriod .int) t = .fault .eventNotEnabled
        ∧ ∀ raw, exec (.acqConv .int raw) t = .fault .eventNotEnabled)
    ∧ (∀ (ctx : Ctx) (rate raw : Word) (is : List Instr) (s t u : State),
        execAll (.acqInit ctx rate :: is) s = .next t → exec (.acqConv .int raw) t = .next u →
        ∃ a b c x y, is = a ++ .acqPeriod x :: (b ++ .sysWait y :: c))

/-- R111: between two conversions of a trace there is a wait. -/
def Obligations.OneConversionPerWait : Prop :=
  ∀ (s t : State) (is : List Instr) (c c' : Ctx) (raw raw' : Word),
    execAll (.acqConv c raw :: is ++ [.acqConv c' raw']) s = .next t → ∃ x, .sysWait x ∈ is

/-- R109: `ACQ.INIT` twice is `ACQ.INIT` once and `ACQ.SHUTDOWN` twice is `ACQ.SHUTDOWN` once; a period
between two `ACQ.INIT` leaves ACQ as one leaves it; a shutdown and an init discard the partial group. -/
def Obligations.AcqInitAndShutdownAreIdempotent : Prop :=
  (∀ (c c' : Ctx) (rate : Word) (s t u : State), exec (.acqInit c rate) s = .next t →
      exec (.acqInit c' rate) t = .next u → sameBlock t u)
    ∧ (∀ (c c' : Ctx) (s t u : State), exec (.acqShutdown c) s = .next t →
        exec (.acqShutdown c') t = .next u → sameBlock t u)
    ∧ (∀ (c c' : Ctx) (rate : Word) (s t u : State), exec (.acqInit c rate) s = .next t →
        execAll [.acqPeriod .int, .acqInit c' rate] t = .next u → u.acq = t.acq)
    ∧ (∀ (c c' : Ctx) (rate : Word) (s u : State),
        execAll [.acqShutdown c, .acqInit c' rate] s = .next u →
        u.acq.sum = .written 0 ∧ u.acq.cnt = .written 0)

/-! ### SPE -/

/-- `SPE.INIT` (section 2 of `41_estimator.md`): the coefficient of the configured numeric structure and the
window length, nothing else. -/
def Obligations.SpeInitSetsCoefficientAndLength : Prop :=
  ∀ (s : State) (fc : RealNum), fgReady s →
    exec (.speInit .fg fc) s = .next (answer (s.withSpe
      { s.spe with coeff := .written ((numOf s.cfg).coeff fc s.cfg.fs), n := .written (2 ^ s.cfg.m) })
      .none .none .none)

/-- The exact instance's coefficient is `2*cos(2*pi*fc/FS)` at every frequency, rational or not
(`41_estimator.md` section 2; the formula is the spec's G1), so `f` and `FS - f` give the same; it is at most 2
in size. -/
def Obligations.ExactCoefficientIsTwiceTheCosine : Prop :=
  (∀ (fc : RealNum) (fs : Nat), 0 < fs →
      (exactNum.coeff fc fs).toReal = 2 * Real.cos (2 * Real.pi * fc.toReal / fs))
    ∧ (∀ (f g : RealNum) (fs : Nat), 0 < fs → g.toReal = fs - f.toReal →
      (exactNum.coeff f fs).toReal = (exactNum.coeff g fs).toReal)
    ∧ ∀ (fc : RealNum) (fs : Nat), |(exactNum.coeff fc fs).toReal| ≤ 2

/-- `SPE.FEED` (section 2 of `41_estimator.md`): the recurrence and the finalisation in their parenthesised
order (both are the spec's G2); `done`, the bit `RSP_D0[0]`, exactly when the counter reaches the window
length; a completed window is refused. -/
def Obligations.SpeFeedAdvancesTheFilter : Prop :=
  ∀ (s : State) (x : Word) (c s1 s2 : RealNum) (n k : Nat), fgReady s →
    -(2 : Int) ^ (s.cfg.accBits - 2 - 1) ≤ x.toInt → x.toInt < (2 : Int) ^ (s.cfg.accBits - 2 - 1) →
    s.spe.coeff = .written c → s.spe.n = .written n → s.spe.s1 = .written s1 → s.spe.s2 = .written s2 →
    s.spe.cnt = .written k →
    (k < n →
      let N := numOf s.cfg
      let s0 := N.sub (N.add (N.ofInt x.toInt) (N.mul c s1)) s2
      exec (.speFeed .fg x) s = .next (answer (s.withSpe
        { s.spe with
          s2 := .written s1, s1 := .written s0, cnt := .written (k + 1),
          result :=
            if k + 1 = n then
              .written (N.mul s.cfg.kappa
                (N.sub (N.add (N.mul s0 s0) (N.mul s1 s1)) (N.mul (N.mul c s0) s1)))
            else s.spe.result })
        (.bits 1 (if k + 1 = n then 1 else 0)) .none .none))
      ∧ (n ≤ k → exec (.speFeed .fg x) s = .refused .windowComplete)

/-- `SPE.RESET` (R124): both accumulators and the counter zeroed; coefficient, length and result stay.
`SPE.GETRESULT` (R125): the last finalised power, no state written; refused before the first window has
completed. -/
def Obligations.SpeResetZeroesAndGetResultReads : Prop :=
  ∀ s : State, fgReady s →
    exec (.speReset .fg) s = .next (answer (s.withSpe
      { s.spe with
        s1 := .written (numOf s.cfg).zero, s2 := .written (numOf s.cfg).zero, cnt := .written 0 })
      .none .none .none)
      ∧ (∀ r, s.spe.result = .written r →
        exec (.speGetResult .fg) s = .next (answer s (.real r) .none .none))
      ∧ (s.spe.result = .unwritten →
        exec (.speGetResult .fg) s = .refused (.unwrittenElement "SPE.RESULT"))

/-- R126: from any state, a frequency set, the window reset and at most `2^M` samples fed complete, in the exact
instance with the filter states' quadratic form the squared magnitude of the samples' Fourier sum at that
frequency, rational or not; the last feed of a whole window answers `done` and the result is `KAPPA` times that.
In every instance the result is that of the recurrence over the embedded samples. -/
def Obligations.WindowPowerIsTheFourierMagnitude : Prop :=
  ∀ (s : State) (fc : RealNum) (xs : List Word), fgReady s → xs.length ≤ 2 ^ s.cfg.m →
    (∀ x ∈ xs, -(2 : Int) ^ (s.cfg.accBits - 3) ≤ x.toInt ∧ x.toInt < (2 : Int) ^ (s.cfg.accBits - 3)) →
    ∃ t c s1 s2, execAll (feedOps fc xs) s = .next t ∧ t.spe.coeff = .written c ∧ t.spe.s1 = .written s1
      ∧ t.spe.s2 = .written s2 ∧ t.spe.cnt = .written xs.length
      ∧ (xs.length = 2 ^ s.cfg.m → t.out.rsp = some ⟨.ok, .bits 1 1, .none, .none⟩
        ∧ t.spe.result = .written (windowPower (numOf s.cfg) s.cfg.kappa ((numOf s.cfg).coeff fc s.cfg.fs)
          (xs.map fun x => (numOf s.cfg).ofInt x.toInt)))
      ∧ (s.cfg.num = .exact →
        let power : ℝ := Complex.normSq (∑ j : Fin xs.length, ((xs.get j).toInt : ℂ)
          * Complex.exp (-(2 * Real.pi * fc.toReal / s.cfg.fs * (j : ℕ)) * Complex.I))
        s1.toReal ^ 2 + s2.toReal ^ 2 - c.toReal * s1.toReal * s2.toReal = power
          ∧ (xs.length = 2 ^ s.cfg.m →
            ∃ r, t.spe.result = .written r ∧ r.toReal = s.cfg.kappa.toReal * power))

/-- R128, R129: the power of a window of exact samples `A*cos(2*pi*k'*j/N + phi)`, at the coefficient of the
frequency `k*FS/N`: `KAPPA*(A*N/2)^2` for `k' = k` inside the band, whatever the phase; `KAPPA*(A*N*cos phi)^2`
at its two ends; 0 for any `k'` that is neither `k` nor `-k` but for multiples of `N`. -/
def Obligations.SinusoidPowerIsThatOfItsBin : Prop :=
  ∀ (c : Config) (fc : RealNum) (xs : List RealNum) (A φ : ℝ) (k k' : Int), 0 < c.fs →
    fc.toReal = k * c.fs / 2 ^ c.m → xs.length = 2 ^ c.m →
    (∀ j : Fin xs.length, (xs.get j).toReal = A * Real.cos (2 * Real.pi * k' * (j : ℕ) / 2 ^ c.m + φ)) →
    let power : ℝ := (windowPower exactNum c.kappa (exactNum.coeff fc c.fs) xs).toReal
    (k' = k → 0 < k → 2 * k < 2 ^ c.m → power = c.kappa.toReal * (A * 2 ^ c.m / 2) ^ 2)
      ∧ (k' = k → k = 0 ∨ 2 * k = 2 ^ c.m → power = c.kappa.toReal * (A * 2 ^ c.m * Real.cos φ) ^ 2)
      ∧ (¬ (2 : Int) ^ c.m ∣ k' - k → ¬ (2 : Int) ^ c.m ∣ k' + k → power = 0)

/-- R15, R121, R123, R142: the functions of the reference instance are those of the real numbers; in it a feed
computes its filter state and its power, and `CSM.PROCESS` compares, in the real numbers. (The recurrence and
the finalisation are the spec's G2; that a counter's increment wraps is R146, its reading G3.) -/
def Obligations.ReferenceInstanceComputesInTheReals : Prop :=
  (exactNum.zero.toReal = 0 ∧ (∀ v, (exactNum.ofInt v).toReal = v)
      ∧ ∀ x y : RealNum, (exactNum.add x y).toReal = x.toReal + y.toReal
        ∧ (exactNum.sub x y).toReal = x.toReal - y.toReal ∧ (exactNum.mul x y).toReal = x.toReal * y.toReal
        ∧ (exactNum.le x y = true ↔ x.toReal ≤ y.toReal))
    ∧ ∀ s t : State, s.cfg.num = .exact →
    (∀ (x : Word) (c s1 s2 : RealNum) (n k : Nat), s.spe.coeff = .written c → s.spe.s1 = .written s1 →
        s.spe.s2 = .written s2 → s.spe.n = .written n → s.spe.cnt = .written k →
        exec (.speFeed .fg x) s = .next t →
        ∃ s0, t.spe.s1 = .written s0 ∧ s0.toReal = x.toInt + c.toReal * s1.toReal - s2.toReal
          ∧ (k + 1 = n → ∃ r, t.spe.result = .written r ∧ r.toReal = s.cfg.kappa.toReal
            * (s0.toReal * s0.toReal + s1.toReal * s1.toReal - c.toReal * s0.toReal * s1.toReal)))
      ∧ (∀ (p h l : RealNum) (on off : Word) (a b : Nat), s.csm.above = .written a → s.csm.below = .written b →
        exec (.csmProcess .fg p h l on off) s = .next t →
        (s.csm.rd = .written .opened → h.toReal ≤ p.toReal →
            t.csm.above = .written ((a + 1) % 2 ^ s.cfg.cntBits))
          ∧ (s.csm.rd = .written .opened → p.toReal < h.toReal → t.csm.rd = .written .opened
            ∧ t.csm.above = .written (if s.cfg.resetOnMiss then 0 else a))
          ∧ (s.csm.rd = .written .closed → p.toReal ≤ l.toReal →
            t.csm.below = .written ((b + 1) % 2 ^ s.cfg.cntBits))
          ∧ (s.csm.rd = .written .closed → l.toReal < p.toReal → t.csm.rd = .written .closed
            ∧ t.csm.below = .written (if s.cfg.resetOnMiss then 0 else b)))

/-- R127: after a reset, feeds of zero keep both filter states zero throughout and a whole window of them
ends with the result zero, in every instance whose zero is the number 0, annihilates products from the
right, and is kept by sums and differences. (The rule names the product's left side; `COEFF * S1` needs the
right one, log entry 20.) -/
def Obligations.ZeroSignalGivesZeroPower : Prop :=
  ∀ (s : State) (c : RealNum) (k : Nat), fgReady s →
    (numOf s.cfg).ofInt 0 = (numOf s.cfg).zero →
    (∀ a, (numOf s.cfg).mul a (numOf s.cfg).zero = (numOf s.cfg).zero) →
    (numOf s.cfg).add (numOf s.cfg).zero (numOf s.cfg).zero = (numOf s.cfg).zero →
    (numOf s.cfg).sub (numOf s.cfg).zero (numOf s.cfg).zero = (numOf s.cfg).zero →
    s.spe.coeff = .written c → s.spe.n = .written (2 ^ s.cfg.m) → k ≤ 2 ^ s.cfg.m →
    ∃ t, execAll (.speReset .fg :: List.replicate k (.speFeed .fg 0)) s = .next t
      ∧ t.spe.s1 = .written (numOf s.cfg).zero ∧ t.spe.s2 = .written (numOf s.cfg).zero
      ∧ (k = 2 ^ s.cfg.m → t.spe.result = .written (numOf s.cfg).zero)

/-- R130, in the exact instance: with a coefficient of at most 2 in size a finalised power is not negative,
whatever the filter states. From any state, whatever the frequency, a window's coefficient is at most 2 in
size, its filter states are inside the rule's two bounds, and its power inside its bounds (`X` is the largest
sample magnitude). -/
def Obligations.FinalisedPowerIsNonNegativeAndBounded : Prop :=
  (∀ (s t : State) (x : Word) (c r : RealNum) (k : Nat), s.cfg.num = .exact → s.spe.coeff = .written c →
      |c.toReal| ≤ 2 → s.spe.cnt = .written k → s.spe.n = .written (k + 1) →
      exec (.speFeed .fg x) s = .next t → t.spe.result = .written r → 0 ≤ r.toReal)
    ∧ (∀ (s : State) (fc : RealNum) (xs : List Word), fgReady s → s.cfg.num = .exact →
      xs.length ≤ 2 ^ s.cfg.m →
      (∀ x ∈ xs, -(2 : Int) ^ (s.cfg.accBits - 3) ≤ x.toInt ∧ x.toInt < (2 : Int) ^ (s.cfg.accBits - 3)) →
      let N : ℝ := 2 ^ s.cfg.m
      let X : ℝ := 2 ^ (s.cfg.accBits - 3)
      ∃ t c s1 s2, execAll (feedOps fc xs) s = .next t ∧ t.spe.coeff = .written c ∧ t.spe.s1 = .written s1
        ∧ t.spe.s2 = .written s2 ∧ |c.toReal| ≤ 2
        ∧ |s1.toReal| ≤ N * (N + 1) / 2 * X ∧ |s2.toReal| ≤ N * (N + 1) / 2 * X
        ∧ (∀ θ : ℝ, c.toReal = 2 * Real.cos θ → Real.sin θ ≠ 0 →
          |s1.toReal| ≤ N * X / |Real.sin θ| ∧ |s2.toReal| ≤ N * X / |Real.sin θ|)
        ∧ (xs.length = 2 ^ s.cfg.m → ∃ r, t.spe.result = .written r ∧ 0 ≤ r.toReal
          ∧ r.toReal ≤ s.cfg.kappa.toReal * (N * X) ^ 2))

/-- R33: the result changes only by a feed that makes the counter reach the window length, and the counter
is zeroed only by `SPE.RESET` (a restart makes both unwritten). -/
def Obligations.OnlyACompletedWindowWritesTheResult : Prop :=
  ∀ (i : Instr) (s t : State), exec i s = .next t → (∀ c, i ≠ .sysRestart c) →
    (t.spe.result ≠ s.spe.result → ∃ c x k, i = .speFeed c x ∧ s.spe.cnt = .written k
      ∧ s.spe.n = .written (k + 1))
      ∧ (t.spe.cnt = .written 0 → s.spe.cnt ≠ .written 0 → ∃ c, i = .speReset c)

/-! ### CSM -/

/-- `CSM.INIT` (R141): the mode, the decision Open, all counters 0; the mode 3 is refused. -/
def Obligations.CsmInitStartsOpen : Prop :=
  ∀ (s : State) (mode : Word), fgReady s →
    (∀ m : Mode, mode.toNat = modeCode m →
      exec (.csmInit .fg mode) s = .next (answer
        (s.withCsm ⟨.written m, .written .opened, .written 0, .written 0, .written 0⟩) .none .none .none))
      ∧ (mode = 3 → exec (.csmInit .fg mode) s = .refused .operandOutOfRange)

/-- `CSM.PROCESS` (R142): one branch, by the decision as it was; inclusive comparisons; the transition zeroes the
other counter; a miss zeroes the running one only where configured. The increment wraps: R146, which the spec
marks as its own reading (G3). -/
def Obligations.CsmProcessRunsOneBranch : Prop :=
  ∀ (s : State) (power high low : RealNum) (on off : Word) (rd : Decision) (above below : Nat), fgReady s →
    on.toNat < 2 ^ s.cfg.cntBits → off.toNat < 2 ^ s.cfg.cntBits →
    s.csm.rd = .written rd → s.csm.above = .written above → s.csm.below = .written below →
    exec (.csmProcess .fg power high low on off) s = .next (answer (s.withCsm
      (match rd with
      | .opened =>
        if (numOf s.cfg).le high power = true then
          if on.toNat < (above + 1) % 2 ^ s.cfg.cntBits then
            { s.csm with
              above := .written ((above + 1) % 2 ^ s.cfg.cntBits), rd := .written .closed,
              below := .written 0 }
          else { s.csm with above := .written ((above + 1) % 2 ^ s.cfg.cntBits) }
        else if s.cfg.resetOnMiss = true then { s.csm with above := .written 0 }
        else s.csm
      | .closed =>
        if (numOf s.cfg).le power low = true then
          if off.toNat < (below + 1) % 2 ^ s.cfg.cntBits then
            { s.csm with
              below := .written ((below + 1) % 2 ^ s.cfg.cntBits), rd := .written .opened,
              above := .written 0 }
          else { s.csm with below := .written ((below + 1) % 2 ^ s.cfg.cntBits) }
        else if s.cfg.resetOnMiss = true then { s.csm with below := .written 0 }
        else s.csm)) .none .none .none)

/-- R145: a power strictly between the thresholds never changes the decision and never increments a
counter. -/
def Obligations.HysteresisBandChangesNoDecision : Prop :=
  ∀ (s t : State) (c : Ctx) (power high low : RealNum) (on off : Word),
    (numOf s.cfg).le high power = false → (numOf s.cfg).le power low = false →
    exec (.csmProcess c power high low on off) s = .next t →
    t.csm.rd = s.csm.rd ∧ t.csm.mode = s.csm.mode
      ∧ (t.csm.above = s.csm.above ∨ t.csm.above = .written 0)
      ∧ (t.csm.below = s.csm.below ∨ t.csm.below = .written 0)
      ∧ (s.cfg.resetOnMiss = false → t.csm = s.csm)

/-- R153: from an Open decision with `ABOVE = 0`, calls whose power reaches the high threshold close it at
the call number `onDelay + 1` and not earlier, for both values of `CSM_RESET_ON_MISS`; symmetrically from
a Closed decision. -/
def Obligations.DebounceTakesDelayPlusOneWindows : Prop :=
  (∀ (s : State) (powers : List RealNum) (high low : RealNum) (on off : Word) (below : Nat), fgReady s →
      on.toNat < 2 ^ s.cfg.cntBits - 1 → off.toNat < 2 ^ s.cfg.cntBits →
      s.csm.rd = .written .opened → s.csm.above = .written 0 → s.csm.below = .written below →
      (∀ p ∈ powers, (numOf s.cfg).le high p = true) → powers.length ≤ on.toNat + 1 →
      ∃ t, execAll (processCalls powers high low on off) s = .next t
        ∧ t.csm.rd = .written (if powers.length = on.toNat + 1 then .closed else .opened)
        ∧ t.csm.above = .written powers.length)
    ∧ (∀ (s : State) (powers : List RealNum) (high low : RealNum) (on off : Word) (above : Nat), fgReady s →
      off.toNat < 2 ^ s.cfg.cntBits - 1 → on.toNat < 2 ^ s.cfg.cntBits →
      s.csm.rd = .written .closed → s.csm.below = .written 0 → s.csm.above = .written above →
      (∀ p ∈ powers, (numOf s.cfg).le p low = true) → powers.length ≤ off.toNat + 1 →
      ∃ t, execAll (processCalls powers high low on off) s = .next t
        ∧ t.csm.rd = .written (if powers.length = off.toNat + 1 then .opened else .closed)
        ∧ t.csm.below = .written powers.length)

/-- R150: with constant delays below `2^CNT_BITS - 1`, every operation keeps the running counter at most at
its delay. -/
def Obligations.RunningCounterStaysInsideItsDelay : Prop :=
  ∀ (i : Instr) (s t : State) (on off : Word), on.toNat < 2 ^ s.cfg.cntBits - 1 →
    off.toNat < 2 ^ s.cfg.cntBits - 1 →
    (∀ c p h l x y, i = .csmProcess c p h l x y → x = on ∧ y = off) →
    CountersInside on.toNat off.toNat s → exec i s = .next t → CountersInside on.toNat off.toNat t

/-- `CSM.SHORT` (R147) and `CSM.LONG` (R148): the mode cycles, asymmetric as written, and the blink phase
reset; nothing else. `CSM.TICK` (R149): the blink phase modulo `2T`; refused before `CSM.INIT`. -/
def Obligations.ButtonPushesAndTicksMoveModeAndPhase : Prop :=
  ∀ s : State, fgReady s →
    (∀ m : Mode, s.csm.mode = .written m →
      exec (.csmShort .fg) s = .next (answer (s.withCsm
          { s.csm with
            mode := .written (match m with | .off => .on | .on => .off | .auto => .off),
            blink := .written 0 }) .none .none .none)
        ∧ exec (.csmLong .fg) s = .next (answer (s.withCsm
          { s.csm with
            mode := .written (match m with | .off => .auto | .on => .auto | .auto => .on),
            blink := .written 0 }) .none .none .none))
      ∧ (∀ b, s.csm.blink = .written b →
        exec (.csmTick .fg) s = .next (answer
          (s.withCsm { s.csm with blink := .written ((b + 1) % (2 * s.cfg.blinkTicks)) })
          .none .none .none))
      ∧ (s.csm.blink = .unwritten → exec (.csmTick .fg) s = .refused (.unwrittenElement "CSM.BLINK"))

/-- R151, R152: the relay is forced by the modes On and Off and follows the decision in Auto; the indicator
is off, on, or lit in the first half of the blink period. -/
def Obligations.OutputsFollowModeDecisionAndPhase : Prop :=
  ∀ (s : State) (m : Mode) (d : Decision) (b : Nat), s.csm.mode = .written m → s.csm.rd = .written d →
    s.csm.blink = .written b →
    relayOut s = (match m with | .on => true | .off => false | .auto => decide (d = .closed))
      ∧ indOut s = (match m with | .off => false | .on => true | .auto => decide (b < s.cfg.blinkTicks))

/-- R154: the mode and both outputs right after a push, for every mode and either decision. -/
def Obligations.ModeTransitionTable : Prop :=
  ∀ (s t : State) (c : Ctx) (m : Mode) (d : Decision), s.csm.mode = .written m → s.csm.rd = .written d →
    (exec (.csmShort c) s = .next t →
      t.csm.rd = .written d ∧ t.csm.mode = .written (if m = .off then .on else .off)
        ∧ relayOut t = decide (m = .off) ∧ indOut t = decide (m = .off))
      ∧ (exec (.csmLong c) s = .next t →
        t.csm.rd = .written d ∧ t.csm.mode = .written (if m = .auto then .on else .auto)
          ∧ relayOut t = (decide (m = .auto) || decide (d = .closed)) ∧ indOut t = true)

/-- R35, R154: which operations write the control elements (a restart makes all unwritten). -/
def Obligations.WhoWritesTheControlState : Prop :=
  ∀ (i : Instr) (s t : State), exec i s = .next t → (∀ c, i ≠ .sysRestart c) →
    (∀ c m, i ≠ .csmInit c m) →
    ((t.csm.rd ≠ s.csm.rd ∨ t.csm.above ≠ s.csm.above ∨ t.csm.below ≠ s.csm.below) →
      ∃ c p h l x y, i = .csmProcess c p h l x y)
      ∧ (t.csm.mode ≠ s.csm.mode → ∃ c, i = .csmShort c ∨ i = .csmLong c)
      ∧ (t.csm.blink ≠ s.csm.blink → ∃ c, i = .csmShort c ∨ i = .csmLong c ∨ i = .csmTick c)

/-- R150: the mode operations and `CSM.PROCESS` commute. -/
def Obligations.ModeOperationsCommuteWithProcess : Prop :=
  ∀ (i : Instr) (s t : State) (p h l : RealNum) (x y : Word),
    i = .csmShort .fg ∨ i = .csmLong .fg ∨ i = .csmTick .fg →
    (execAll [i, .csmProcess .fg p h l x y] s = .next t →
      ∃ u, execAll [.csmProcess .fg p h l x y, i] s = .next u ∧ sameBlock t u)
      ∧ (execAll [.csmProcess .fg p h l x y, i] s = .next t →
        ∃ u, execAll [i, .csmProcess .fg p h l x y] s = .next u ∧ sameBlock t u)

/-! ### PST -/

/-- `PST.GET` (R163): the stored value at the fixed stride, little-endian, sign-extended when values are
signed, with no range check; an index outside the table raises `IndexOutOfRange`. -/
def Obligations.PstGetReturnsTheStoredValue : Prop :=
  ∀ (s : State) (index : Word), fgReady s →
    (index.toNat < s.cfg.schema.length →
      let v := readLE s.nvm (2 + s.cfg.stride * index.toNat) s.cfg.stride
      exec (.pstGet .fg index) s = .next (answer s
        (.int (if s.cfg.pvalSigned then (BitVec.ofNat (8 * s.cfg.stride) v).toInt else v)) .none .none))
      ∧ (s.cfg.schema.length ≤ index.toNat →
        ∃ t, exec (.pstGet .fg index) s = .next t ∧ lastStatus t = some (.indexOutOfRange index.toNat)
          ∧ sameBlock s t)

/-- `PST.SET` (R164): index, then too large, then too small, each writing nothing; a value inside the bounds
is stored in its slot and nowhere else. -/
def Obligations.PstSetChecksThenStores : Prop :=
  ∀ (s : State) (index value : Word), fgReady s → s.acq.run = false →
    let v : Int := if s.cfg.pvalSigned then value.toInt else value.toNat
    (s.cfg.schema[index.toNat]? = none →
      ∃ t, exec (.pstSet .fg index value) s = .next t
        ∧ lastStatus t = some (.indexOutOfRange index.toNat) ∧ sameBlock s t)
      ∧ ∀ e, s.cfg.schema[index.toNat]? = some e →
        (e.maximum < v → ∃ t, exec (.pstSet .fg index value) s = .next t
          ∧ lastStatus t = some (.valueTooLarge index.toNat v) ∧ sameBlock s t)
        ∧ (v < e.minimum → ∃ t, exec (.pstSet .fg index value) s = .next t
          ∧ lastStatus t = some (.valueTooSmall index.toNat v) ∧ sameBlock s t)
        ∧ (e.minimum ≤ v → v ≤ e.maximum →
          exec (.pstSet .fg index value) s = .next (answer (s.withNvm
            (writeLE s.nvm (2 + s.cfg.stride * index.toNat) s.cfg.stride
              (v % 2 ^ (8 * s.cfg.stride)).toNat)) .none .none .none)
          ∧ ∀ a, a < 2 + s.cfg.stride * index.toNat
              ∨ 2 + s.cfg.stride * index.toNat + s.cfg.stride ≤ a →
            readCell (writeLE s.nvm (2 + s.cfg.stride * index.toNat) s.cfg.stride
              (v % 2 ^ (8 * s.cfg.stride)).toNat) a = readCell s.nvm a)

/-- R164: `min(i) ≤ v ≤ max(i)` gives `get(i) == v`, for a value the slot's bytes can hold (R9 does not
demand that they can, log entry 16), and every other entry reads as before. -/
def Obligations.SetThenGetReturnsTheValue : Prop :=
  ∀ (s t : State) (index value : Word), Memory.wf s.nvm = true →
    storable s.cfg (valueOperand s.cfg value) = true → exec (.pstSet .fg index value) s = .next t →
    lastStatus t = some .ok →
    (∃ u, exec (.pstGet .fg index) t = .next u
      ∧ u.out.rsp = some ⟨.ok, .int (valueOperand s.cfg value), .none, .none⟩)
      ∧ ∀ k : Word, k ≠ index → ∀ u w, exec (.pstGet .fg k) s = .next u → exec (.pstGet .fg k) t = .next w →
        lastStatus u = some .ok → w.out.rsp = u.out.rsp

/-- `PST.GETRANGE` (R165): bounds and label of the entry, reading no state; `IndexOutOfRange` outside the
table. -/
def Obligations.PstGetRangeReturnsTheBounds : Prop :=
  ∀ (s : State) (index : Word), fgReady s →
    (∀ e, s.cfg.schema[index.toNat]? = some e →
      exec (.pstGetRange .fg index) s
        = .next (answer s (.int e.minimum) (.int e.maximum) (.label e.label)))
      ∧ (s.cfg.schema.length ≤ index.toNat →
        ∃ t, exec (.pstGetRange .fg index) s = .next t
          ∧ lastStatus t = some (.indexOutOfRange index.toNat) ∧ sameBlock s t)

/-- `PST.INIT` (R161) and `PST.RESETALL` (R162), `43_parameter_store.md` section 2: an equal checksum completes with
`didReset = 0` and writes nothing; a different one, and `PST.RESETALL` always, begins the store reset with
the default of entry 0. That the comparison and the first write are one step is the model's (log
entry 9). -/
def Obligations.PstInitComparesTheChecksum : Prop :=
  ∀ (s : State) (e : ParamSchema), fgReady s → s.acq.run = false → s.cfg.schema[0]? = some e →
    let first (fromInit : Bool) : State :=
      ((s.withNvm (writeLE s.nvm 2 s.cfg.stride (e.default % 2 ^ (8 * s.cfg.stride)).toNat)).withJob
        (some ⟨1, fromInit⟩)).withOut StepOutput.quiet
    (readLE s.nvm 0 2 = (expectedChecksum s.cfg).toNat →
      exec (.pstInit .fg) s = .next (answer s (.bits 1 0) .none .none))
      ∧ (readLE s.nvm 0 2 ≠ (expectedChecksum s.cfg).toNat → exec (.pstInit .fg) s = .next (first true))
      ∧ exec (.pstResetAll .fg) s = .next (first false)

/-- R162, R166: a store reset that nothing cuts completes with every slot at its default, the checksum as
expected, the bytes after the table as they were and nothing but the memory changed; afterwards `get(i)` is
`default(i)` for a default the slot's bytes can hold (log entry 16). -/
def Obligations.ResetAllWritesEveryDefault : Prop :=
  ∀ s : State, fgReady s → s.acq.run = false → Memory.wf s.nvm = true →
    ∃ t, execWhole (.pstResetAll .fg) s = .next t ∧ t.job = none ∧ lastStatus t = some .ok
      ∧ t.acq = s.acq ∧ t.spe = s.spe ∧ t.csm = s.csm ∧ t.asleep = s.asleep ∧ t.cfg = s.cfg
      ∧ Memory.wf t.nvm = true
      ∧ readLE t.nvm 0 2 = (expectedChecksum s.cfg).toNat
      ∧ (∀ i e, s.cfg.schema[i]? = some e →
        readLE t.nvm (2 + s.cfg.stride * i) s.cfg.stride = (e.default % 2 ^ (8 * s.cfg.stride)).toNat)
      ∧ (∀ a, 2 + s.cfg.stride * s.cfg.schema.length ≤ a → readCell t.nvm a = readCell s.nvm a)
      ∧ (∀ (index : Word) e, s.cfg.schema[index.toNat]? = some e → storable s.cfg e.default = true →
        ∃ u, exec (.pstGet .fg index) t = .next u
          ∧ u.out.rsp = some ⟨.ok, .int e.default, .none, .none⟩)

/-- R161, R166: `PST.INIT` run to its end leaves the checksum the schema's, answers whether it reset, and
right after it or after `PST.RESETALL` a `PST.INIT` resets nothing. That the last step gives the response is
the model's (log entry 9). -/
def Obligations.InitNeverRetriggersAReset : Prop :=
  ∀ (i : Instr) (s : State), i = .pstInit .fg ∨ i = .pstResetAll .fg → fgReady s → s.acq.run = false →
    Memory.wf s.nvm = true →
    ∃ t, execWhole i s = .next t ∧ fgReady t ∧ readLE t.nvm 0 2 = (expectedChecksum s.cfg).toNat
      ∧ (i = .pstInit .fg → t.out.rsp = some
          ⟨.ok, .bits 1 (if readLE s.nvm 0 2 = (expectedChecksum s.cfg).toNat then 0 else 1), .none, .none⟩)
      ∧ exec (.pstInit .fg) t = .next (answer t (.bits 1 0) .none .none)

/-- R65, R162, R240: while a store reset is in progress the entries before its position hold their defaults
and every other byte, the checksum's among them, is as before it began; so a restart in its midst over a
checksum that did not match leaves one that does not match, and the next `PST.INIT` begins the reset
again. -/
def Obligations.CutStoreResetLeavesTheChecksum : Prop :=
  ∀ (i : Instr) (s t u : State) (k : Nat) (j : StoreJob), i = .pstInit .fg ∨ i = .pstResetAll .fg →
    Memory.wf s.nvm = true → exec i s = .next t → storeSteps k t = .next u → u.job = some j →
    (∀ n e, n < j.next → s.cfg.schema[n]? = some e →
        readLE u.nvm (2 + s.cfg.stride * n) s.cfg.stride = (e.default % 2 ^ (8 * s.cfg.stride)).toNat)
      ∧ (∀ a, a < 2 ∨ 2 + s.cfg.stride * j.next ≤ a → readCell u.nvm a = readCell s.nvm a)
      ∧ (readLE s.nvm 0 2 ≠ (expectedChecksum s.cfg).toNat →
        ∃ v w, exec (.sysRestart .fg) u = .next v ∧ exec (.pstInit .fg) v = .next w
          ∧ w.job = some ⟨1, true⟩)

/-- R167, R240: the operations that write the store are refused while acquisition runs; the two that read it are
legal; no operation and no step changes the memory in a state with `ACQ.RUN = 1`, the next `MemWrite` of a store
reset that an `ACQ.INIT` of the interrupt context has overtaken among them (that it is refused is the model's
choice, log entry 9). -/
def Obligations.StoreWritersNeedAcquisitionStopped : Prop :=
  (∀ s : State, fgReady s → s.acq.run = true →
      exec (.pstInit .fg) s = .refused .storeWhileRunning
        ∧ exec (.pstResetAll .fg) s = .refused .storeWhileRunning
        ∧ (∀ index value, exec (.pstSet .fg index value) s = .refused .storeWhileRunning)
        ∧ (∀ index, ∃ t, exec (.pstGet .fg index) s = .next t)
        ∧ (∀ index, ∃ t, exec (.pstGetRange .fg index) s = .next t))
    ∧ (∀ (i : Instr) (s t : State), exec i s = .next t → s.acq.run = true → t.nvm = s.nvm)
    ∧ (∀ s t : State, step s = .next t → s.acq.run = true → t.nvm = s.nvm)
    ∧ ∀ (s : State) (j : StoreJob), wellFormed s.cfg = true → s.acq.run = true →
      continueStore j s = .refused .storeWhileRunning

/-- R66: the store's memory has one owner: no operation but the three that write it changes a byte. -/
def Obligations.OnlyTheStoreWritesItsMemory : Prop :=
  ∀ (i : Instr) (s t : State), exec i s = .next t →
    (∀ c, i ≠ .pstInit c ∧ i ≠ .pstResetAll c ∧ ∀ x v, i ≠ .pstSet c x v) → sameBytes s t

/-- R61, R202: no operation and no step forms an offset outside the memory. -/
def Obligations.NoOffsetOutsideTheMemory : Prop :=
  (∀ (i : Instr) (s : State), exec i s ≠ .fault .offsetOutsideStore)
    ∧ ∀ s : State, step s ≠ .fault .offsetOutsideStore

/-! ### SYS, reset, frames -/

/-- `SYS.WAIT` (R181): the foreground sleeps; a conversion starts, with the pulse `CONV_START`, exactly when
acquisition runs with the front end enabled and none in progress. -/
def Obligations.SysWaitSleepsAndStartsAConversion : Prop :=
  ∀ s : State, fgReady s →
    exec (.sysWait .fg) s = .next
      (if s.acq.run = true ∧ s.acq.feEn = true ∧ s.acq.convBusy = false then
        ((s.withAcq { s.acq with convBusy := true }).withAsleep true).withOut
          ⟨some ⟨.ok, .none, .none, .none⟩, true, false⟩
      else (s.withAsleep true).withOut ⟨some ⟨.ok, .none, .none, .none⟩, false, false⟩)

/-- `SYS.WDKICK` (R183): no state written, the pulse `WD_KICK`. `SYS.SERIAL` (R184): always enabled, wakes
the foreground, nothing else. -/
def Obligations.WatchdogKickAndSerialWake : Prop :=
  (∀ s : State, fgReady s → exec (.sysWdkick .fg) s = .next
      (s.withOut ⟨some ⟨.ok, .none, .none, .none⟩, false, true⟩))
    ∧ (∀ s : State, wellFormed s.cfg = true →
        exec (.sysSerial .int) s = .next (answer (s.withAsleep false) .none .none .none))

/-- `SYS.RESTART` (R230, R45): in any context, always enabled; the control bits and `SYS.ASLEEP` 0, every
other element unwritten, the memory as it was, an operation in progress cut, the foreground agent at the start
of the boot sequence. That the configuration and the rest of the run stay is the model's (log entry 14). -/
def Obligations.RestartResetsAllButTheMemory : Prop :=
  ∀ (ctx : Ctx) (s : State), wellFormed s.cfg = true →
    ∃ t, exec (.sysRestart ctx) s = .next t ∧ t.acq.run = false ∧ t.acq.feEn = false
      ∧ t.acq.convBusy = false ∧ t.asleep = false ∧ t.acq.sum = .unwritten ∧ t.acq.cnt = .unwritten
      ∧ t.acq.value = .unwritten ∧ t.acq.newValue = .unwritten ∧ t.acq.newConv = .unwritten
      ∧ t.acq.presc = .unwritten ∧ t.acq.cmp = .unwritten ∧ t.spe.coeff = .unwritten
      ∧ t.spe.n = .unwritten ∧ t.spe.s1 = .unwritten ∧ t.spe.s2 = .unwritten ∧ t.spe.cnt = .unwritten
      ∧ t.spe.result = .unwritten ∧ t.csm.mode = .unwritten ∧ t.csm.rd = .unwritten
      ∧ t.csm.above = .unwritten ∧ t.csm.below = .unwritten ∧ t.csm.blink = .unwritten
      ∧ t.nvm = s.nvm ∧ t.job = none ∧ t.cfg = s.cfg ∧ t.pending = s.pending ∧ feOut t = false
      ∧ t.foreground = .boot1

/-- R230, R232, R234: after a restart the reference foreground, with nothing waiting, reaches the loop of R187
with the checksum as expected, acquisition running with nothing taken yet, the stored frequency and mode set,
the estimator's window empty, the decision Open, and the relay output 1 exactly when the startup mode is On.
The numbers it presents fit an operand word (log entry 22). -/
def Obligations.RestartBootsTheForeground : Prop :=
  ∀ (ctx : Ctx) (s u : State), exec (.sysRestart ctx) s = .next u → Memory.wf s.nvm = true →
    s.cfg.idxFreq < 2 ^ 32 → s.cfg.idxMode < 2 ^ 32 → s.cfg.fs < 2 ^ 32 →
    ∃ k t, foregroundTurns k u = .next t ∧ t.foreground = .step1 ∧ fgReady t ∧ t.cfg = s.cfg
      ∧ readLE t.nvm 0 2 = (expectedChecksum s.cfg).toNat
      ∧ (readLE s.nvm 0 2 = (expectedChecksum s.cfg).toNat → t.nvm = s.nvm)
      ∧ t.acq.run = true ∧ t.acq.feEn = false ∧ t.acq.convBusy = false ∧ t.acq.sum = .written 0
      ∧ t.acq.cnt = .written 0 ∧ t.acq.newValue = .written false ∧ t.acq.newConv = .written false
      ∧ (let stored (i : Nat) : Int :=
          decodeValue s.cfg (readLE t.nvm (2 + s.cfg.stride * i) s.cfg.stride)
        let freq := realOf s.cfg s.cfg.freqOf (stored s.cfg.idxFreq)
        let mode := modeOf s.cfg (stored s.cfg.idxMode)
        t.spe.coeff = .written ((numOf s.cfg).coeff freq s.cfg.fs) ∧ t.spe.n = .written (2 ^ s.cfg.m)
          ∧ t.spe.s1 = .written (numOf s.cfg).zero ∧ t.spe.s2 = .written (numOf s.cfg).zero
          ∧ t.spe.cnt = .written 0 ∧ t.spe.result = .unwritten
          ∧ t.csm = ⟨.written mode, .written .opened, .written 0, .written 0, .written 0⟩
          ∧ relayOut t = decide (mode = .on))

/-- R21, R233: an operation performed too early reads an unwritten element and is refused: after a restart,
where no event is enabled either (the fault: log entry 13); and in any state in which an element it reads is
still unwritten, the states between `SPE.INIT` and `SPE.RESET` (R131) among them. -/
def Obligations.TooEarlyOperationsAreRefused : Prop :=
  (∀ (ctx : Ctx) (s t : State), exec (.sysRestart ctx) s = .next t →
    (∀ sel : Word, 0 < sel.toNat → sel.toNat < 4 →
      ∃ n, exec (.acqTake .fg sel) t = .refused (.unwrittenElement n))
      ∧ (∀ x : Word, inSigned (dsBits t.cfg) x.toInt = true →
        ∃ n, exec (.speFeed .fg x) t = .refused (.unwrittenElement n))
      ∧ (∃ n, exec (.speGetResult .fg) t = .refused (.unwrittenElement n))
      ∧ (∀ p h l (on off : Word), on.toNat < 2 ^ t.cfg.cntBits → off.toNat < 2 ^ t.cfg.cntBits →
        ∃ n, exec (.csmProcess .fg p h l on off) t = .refused (.unwrittenElement n))
      ∧ (∃ n, exec (.csmShort .fg) t = .refused (.unwrittenElement n))
      ∧ (∃ n, exec (.csmLong .fg) t = .refused (.unwrittenElement n))
      ∧ (∃ n, exec (.csmTick .fg) t = .refused (.unwrittenElement n))
      ∧ exec (.acqPeriod .int) t = .fault .eventNotEnabled
      ∧ ∀ raw, exec (.acqConv .int raw) t = .fault .eventNotEnabled)
    ∧ ∀ s : State, fgReady s →
      (∀ x : Word, inSigned (dsBits s.cfg) x.toInt = true →
        (s.spe.coeff = .unwritten ∨ s.spe.n = .unwritten ∨ s.spe.s1 = .unwritten ∨ s.spe.s2 = .unwritten
          ∨ s.spe.cnt = .unwritten) →
        ∃ n, exec (.speFeed .fg x) s = .refused (.unwrittenElement n))
        ∧ (∀ p h l (on off : Word), on.toNat < 2 ^ s.cfg.cntBits → off.toNat < 2 ^ s.cfg.cntBits →
          (s.csm.rd = .unwritten ∨ s.csm.above = .unwritten ∨ s.csm.below = .unwritten) →
          ∃ n, exec (.csmProcess .fg p h l on off) s = .refused (.unwrittenElement n))
        ∧ (s.csm.mode = .unwritten → exec (.csmShort .fg) s = .refused (.unwrittenElement "CSM.MODE")
          ∧ exec (.csmLong .fg) s = .refused (.unwrittenElement "CSM.MODE"))

/-- R133, R35, R66 and each operation's rule: the elements outside an operation's unit stay as they are, every
byte of the memory outside the slot that is stored to, every byte for the operations that store nothing. Only
the restart reaches every unit, and moves the foreground agent. That the configuration and the rest of the run
stay in every operation is the model's (log entry 14), and so is the count of steps (log entry 6). -/
def Obligations.OperationsKeepToTheirUnit : Prop :=
  ∀ (i : Instr) (s t : State), exec i s = .next t →
    (t.cfg = s.cfg ∧ t.pending = s.pending ∧ t.epoch = s.epoch + 1)
      ∧ ((∀ c, i ≠ .sysRestart c) → t.foreground = s.foreground)
      ∧ (∀ c w, i = .acqInit c w ∨ i = .acqShutdown c ∨ i = .acqTake c w →
        t.spe = s.spe ∧ t.csm = s.csm ∧ t.asleep = s.asleep ∧ t.job = s.job ∧ sameBytes s t)
      ∧ (∀ c w, i = .acqPeriod c ∨ i = .acqConv c w →
        t.spe = s.spe ∧ t.csm = s.csm ∧ t.asleep = false ∧ t.job = s.job ∧ sameBytes s t)
      ∧ (∀ c f x, i = .speInit c f ∨ i = .speFeed c x ∨ i = .speReset c ∨ i = .speGetResult c →
        t.acq = s.acq ∧ t.csm = s.csm ∧ t.asleep = s.asleep ∧ t.job = s.job ∧ sameBytes s t)
      ∧ (∀ c m p h l x y, i = .csmInit c m ∨ i = .csmProcess c p h l x y ∨ i = .csmShort c
          ∨ i = .csmLong c ∨ i = .csmTick c →
        t.acq = s.acq ∧ t.spe = s.spe ∧ t.asleep = s.asleep ∧ t.job = s.job ∧ sameBytes s t)
      ∧ (∀ c x v, i = .pstInit c ∨ i = .pstResetAll c ∨ i = .pstSet c x v →
        t.acq = s.acq ∧ t.spe = s.spe ∧ t.csm = s.csm ∧ t.asleep = s.asleep)
      ∧ (∀ c a, i = .pstInit c ∨ i = .pstResetAll c →
        a < slot s.cfg 0 ∨ slot s.cfg 0 + s.cfg.stride ≤ a → readCell t.nvm a = readCell s.nvm a)
      ∧ (∀ c x v a, i = .pstSet c x v →
        a < slot s.cfg x.toNat ∨ slot s.cfg x.toNat + s.cfg.stride ≤ a →
        readCell t.nvm a = readCell s.nvm a ∧ t.job = s.job)
      ∧ (∀ c x, i = .pstGet c x ∨ i = .pstGetRange c x ∨ i = .sysWdkick c →
        sameBlock s t ∧ t.job = s.job)
      ∧ (∀ c, i = .sysWait c → t.spe = s.spe ∧ t.csm = s.csm ∧ t.job = s.job ∧ sameBytes s t
        ∧ { t.acq with convBusy := s.acq.convBusy } = s.acq)
      ∧ (∀ c, i = .sysSerial c → t.acq = s.acq ∧ t.spe = s.spe ∧ t.csm = s.csm ∧ t.job = s.job
        ∧ sameBytes s t)
      ∧ (∀ c, i = .sysRestart c → t.acq = Acq.reset ∧ t.spe = Spe.reset ∧ t.csm = Csm.reset ∧ t.asleep = false
        ∧ t.job = none ∧ t.foreground = .boot1 ∧ sameBytes s t)

/-- R186: a console excursion, whatever the console does in it, leaves no partial group, no flag and no
partial window, and changes neither the coefficient, the last result nor the control state. -/
def Obligations.ExcursionLeavesNoHalfFormedWindow : Prop :=
  ∀ (s t : State) (acts : List ConsoleAct), execAll (excursionOps s.cfg acts) s = .next t →
    t.acq.run = true ∧ t.acq.feEn = false ∧ t.acq.convBusy = false ∧ t.acq.sum = .written 0
      ∧ t.acq.cnt = .written 0 ∧ t.acq.newValue = .written false ∧ t.acq.newConv = .written false
      ∧ t.acq.value = s.acq.value ∧ t.spe.s1 = .written (numOf s.cfg).zero
      ∧ t.spe.s2 = .written (numOf s.cfg).zero ∧ t.spe.cnt = .written 0 ∧ t.spe.coeff = s.spe.coeff
      ∧ t.spe.n = s.spe.n ∧ t.spe.result = s.spe.result ∧ t.csm = s.csm

/-! ### The invariant -/

/-- The legal values of R20 (with R24, R33, R36, R37, R60) and their relations are kept by every step, and
no step changes the configuration (R23). -/
def Obligations.EveryStepKeepsTheStateLegal : Prop :=
  ∀ s t : State, Legal s → step s = .next t → Legal t ∧ t.cfg = s.cfg

/-- The reset state is legal (R45). Its configuration TOY and its empty memory are the model's choice (log
entries 2 and 12). -/
def Obligations.ResetIsLegal : Prop :=
  Legal State.reset
end

