-- ==== Sys2Proof/Laws/Memory.lean ====
section
/-! SUPPORT. The laws of the non-volatile memory: a write keeps the canonical form and the size, reads back
what it stored, and leaves every other byte alone; canonical memories that read alike are equal. -/

namespace Sys2Proof.Machine

theorem wfFrom_weaken {m : Memory} {lo lo' : Nat} (h : wfFrom lo m = true) (hle : lo' ≤ lo) :
    wfFrom lo' m = true := by
  cases m with
  | nil => rfl
  | cons c m =>
    simp only [wfFrom, Bool.and_eq_true, decide_eq_true_eq] at h ⊢
    exact ⟨⟨Nat.le_trans hle h.1.1, h.1.2⟩, h.2⟩

theorem readCell_below {m : Memory} {lo y : Nat} (h : wfFrom lo m = true) (hy : y < lo) :
    readCell m y = erasedByte := by
  induction m generalizing lo with
  | nil => rfl
  | cons c m ih =>
    simp only [wfFrom, Bool.and_eq_true, decide_eq_true_eq] at h
    have : y ≠ c.1 := by omega
    simpa [readCell, this] using ih h.2 (by omega)

/-- A write keeps the canonical form. -/
theorem wfFrom_writeCell {m : Memory} {lo x : Nat} (v : Byte) (h : wfFrom lo m = true) (hx : lo ≤ x) :
    wfFrom lo (writeCell m x v) = true := by
  induction m generalizing lo with
  | nil => unfold writeCell; split <;> simp_all [wfFrom]
  | cons c m ih =>
    simp only [wfFrom, Bool.and_eq_true, decide_eq_true_eq] at h
    unfold writeCell
    split
    · split
      · simp [wfFrom, h]
      · simp_all [wfFrom]
    · split
      · split
        · exact wfFrom_weaken h.2 (by omega)
        · simp_all [wfFrom]
      · simpa [wfFrom, h] using ih h.2 (by omega)

theorem wf_writeCell {m : Memory} (h : Memory.wf m = true) (x : Nat) (v : Byte) :
    Memory.wf (writeCell m x v) = true :=
  wfFrom_writeCell v h (Nat.zero_le x)

/-- Every multi-byte write keeps the canonical form. -/
theorem wf_writeLE {m : Memory} (h : Memory.wf m = true) (a n v : Nat) :
    Memory.wf (writeLE m a n v) = true := by
  induction n generalizing m a v with
  | zero => exact h
  | succ n ih => exact ih (wf_writeCell h a _) _ _

/-- A write leaves every other byte alone, whatever the memory's form. -/
theorem readCell_writeCell_ne (m : Memory) {x y : Nat} (v : Byte) (h : y ≠ x) :
    readCell (writeCell m x v) y = readCell m y := by
  induction m with
  | nil => unfold writeCell; split <;> simp [readCell, h]
  | cons c m ih =>
    unfold writeCell
    split
    · split <;> simp [readCell, h]
    · split
      · rename_i _ hx
        have : y ≠ c.1 := by omega
        split <;> simp [readCell, h, this]
      · simp [readCell, ih]

/-- A read after a write to the same place gives the value written. -/
theorem readCell_writeCell_self {m : Memory} {lo : Nat} (h : wfFrom lo m = true) (x : Nat) (v : Byte) :
    readCell (writeCell m x v) x = v := by
  induction m generalizing lo with
  | nil => unfold writeCell; split <;> simp_all [readCell]
  | cons c m ih =>
    simp only [wfFrom, Bool.and_eq_true, decide_eq_true_eq] at h
    unfold writeCell
    split
    · split
      · rename_i hlt hv
        have : x ≠ c.1 := by omega
        simp [readCell, this, hv, readCell_below h.2 (show x < c.1 + 1 by omega)]
      · simp [readCell]
    · split
      · split
        · rename_i hx hv
          rw [hv]; exact readCell_below h.2 (by omega)
        · simp [readCell]
      · rename_i hne
        simpa [readCell, hne] using ih h.2

theorem readCell_writeCell {m : Memory} (h : Memory.wf m = true) (x y : Nat) (v : Byte) :
    readCell (writeCell m x v) y = if y = x then v else readCell m y := by
  split
  · rename_i hy; subst hy; exact readCell_writeCell_self h _ _
  · rename_i hy; exact readCell_writeCell_ne m v hy

/-- A multi-byte write leaves every byte outside it alone. -/
theorem readCell_writeLE_outside (m : Memory) {a n y : Nat} (v : Nat) (h : y < a ∨ a + n ≤ y) :
    readCell (writeLE m a n v) y = readCell m y := by
  induction n generalizing m a v with
  | zero => rfl
  | succ n ih =>
    rw [writeLE, ih _ _ (by omega), readCell_writeCell_ne _ _ (by omega)]

/-- Reading `n` bytes depends on those bytes alone. -/
theorem readLE_congr {m m' : Memory} {a n : Nat} (h : ∀ y, a ≤ y → y < a + n → readCell m y = readCell m' y) :
    readLE m a n = readLE m' a n := by
  induction n generalizing a with
  | zero => rfl
  | succ n ih =>
    rw [readLE, readLE, h a (by omega) (by omega), ih fun y h1 h2 => h y (by omega) (by omega)]

/-- What `MemWrite` stored is what `MemRead` gives back (R62). -/
theorem readLE_writeLE {m : Memory} (h : Memory.wf m = true) (a n v : Nat) :
    readLE (writeLE m a n v) a n = v % 256 ^ n := by
  induction n generalizing m a v with
  | zero => simp [readLE, Nat.mod_one]
  | succ n ih =>
    have hc : readCell (writeLE (writeCell m a (BitVec.ofNat 8 v)) (a + 1) n (v / 256)) a
        = BitVec.ofNat 8 v := by
      rw [readCell_writeLE_outside _ _ (by omega), readCell_writeCell h, if_pos rfl]
    have hp : 256 ^ (n + 1) = 256 * 256 ^ n := by ring
    rw [readLE, writeLE, hc, ih (wf_writeCell h a _), BitVec.toNat_ofNat, hp, Nat.mod_mul]

theorem inside_cons (size : Nat) (c : Host.Cell) (m : Memory) :
    Memory.inside size (c :: m) = (decide (c.1 < size) && Memory.inside size m) := rfl

theorem inside_writeCell {m : Memory} {size x : Nat} (v : Byte) (h : Memory.inside size m = true)
    (hx : x < size) : Memory.inside size (writeCell m x v) = true := by
  induction m with
  | nil => unfold writeCell; split <;> simp [Memory.inside, hx]
  | cons c m ih =>
    rw [inside_cons, Bool.and_eq_true, decide_eq_true_eq] at h
    have hm := ih h.2
    unfold writeCell
    split
    · split <;> simp [inside_cons, h, hx]
    · split
      · split <;> simp [inside_cons, h, hx]
      · simp [inside_cons, h, hm]

/-- A write inside the size keeps every listed address inside it. -/
theorem inside_writeLE {m : Memory} {size a n : Nat} (v : Nat) (h : Memory.inside size m = true)
    (ha : a + n ≤ size) : Memory.inside size (writeLE m a n v) = true := by
  induction n generalizing m a v with
  | zero => exact h
  | succ n ih => exact ih _ (inside_writeCell _ h (by omega)) (by omega)

theorem readLE_lt (m : Memory) (a n : Nat) : readLE m a n < 256 ^ n := by
  induction n generalizing a with
  | zero => simp [readLE]
  | succ n ih =>
    have h1 := ih (a + 1)
    have h2 := (readCell m a).isLt
    rw [readLE, pow_succ]; omega

/-- Canonical memories that read alike are equal. -/
theorem canonical_ext {m m' : Memory} {lo : Nat} (h : wfFrom lo m = true) (h' : wfFrom lo m' = true)
    (hr : ∀ y, readCell m y = readCell m' y) : m = m' := by
  induction m generalizing lo m' with
  | nil =>
    cases m' with
    | nil => rfl
    | cons c m' =>
      simp only [wfFrom, Bool.and_eq_true, decide_eq_true_eq] at h'
      have := hr c.1
      simp [readCell] at this
      exact absurd this.symm h'.1.2
  | cons c m ih =>
    simp only [wfFrom, Bool.and_eq_true, decide_eq_true_eq] at h
    cases m' with
    | nil =>
      have := hr c.1
      simp [readCell] at this
      exact absurd this h.1.2
    | cons d m' =>
      simp only [wfFrom, Bool.and_eq_true, decide_eq_true_eq] at h'
      have hcd : c.1 = d.1 := by
        rcases Nat.lt_trichotomy c.1 d.1 with hlt | heq | hgt
        · have e := hr c.1
          rw [readCell, if_pos rfl, readCell, if_neg (by omega), readCell_below h'.2 (by omega)] at e
          exact absurd e h.1.2
        · exact heq
        · have e := hr d.1
          rw [readCell, if_neg (by omega), readCell_below h.2 (by omega), readCell, if_pos rfl] at e
          exact absurd e.symm h'.1.2
      have hb : c.2 = d.2 := by
        have e := hr c.1
        rwa [readCell, if_pos rfl, readCell, if_pos hcd] at e
      have hm : m = m' := by
        refine ih h.2 (hcd ▸ h'.2) fun y => ?_
        by_cases hy : y = c.1
        · rw [readCell_below h.2 (by omega), readCell_below h'.2 (by omega)]
        · have e := hr y
          rwa [readCell, if_neg hy, readCell, if_neg (hcd ▸ hy)] at e
      rw [hm, show c = d from Prod.ext hcd hb]

/-- The memory at reset is canonical. -/
theorem reset_memory_wf : Memory.wf State.reset.nvm = true := rfl

end Sys2Proof.Machine
end

