-- ==== Sys2Proof/Laws/State.lean ====
section
/-! SUPPORT. One lemma per field per update of the state, so that no proof unfolds a record update. -/

namespace Sys2Proof.Machine

@[simp] theorem State.withAcq_acq (s : State) (a : Acq) : (s.withAcq a).acq = a := rfl
@[simp] theorem State.withAcq_spe (s : State) (a : Acq) : (s.withAcq a).spe = s.spe := rfl
@[simp] theorem State.withAcq_csm (s : State) (a : Acq) : (s.withAcq a).csm = s.csm := rfl
@[simp] theorem State.withAcq_asleep (s : State) (a : Acq) : (s.withAcq a).asleep = s.asleep := rfl
@[simp] theorem State.withAcq_nvm (s : State) (a : Acq) : (s.withAcq a).nvm = s.nvm := rfl
@[simp] theorem State.withAcq_cfg (s : State) (a : Acq) : (s.withAcq a).cfg = s.cfg := rfl
@[simp] theorem State.withAcq_job (s : State) (a : Acq) : (s.withAcq a).job = s.job := rfl
@[simp] theorem State.withAcq_pending (s : State) (a : Acq) : (s.withAcq a).pending = s.pending := rfl
@[simp] theorem State.withAcq_foreground (s : State) (a : Acq) : (s.withAcq a).foreground = s.foreground := rfl
@[simp] theorem State.withAcq_out (s : State) (a : Acq) : (s.withAcq a).out = s.out := rfl
@[simp] theorem State.withAcq_epoch (s : State) (a : Acq) : (s.withAcq a).epoch = s.epoch := rfl

@[simp] theorem State.withSpe_acq (s : State) (p : Spe) : (s.withSpe p).acq = s.acq := rfl
@[simp] theorem State.withSpe_spe (s : State) (p : Spe) : (s.withSpe p).spe = p := rfl
@[simp] theorem State.withSpe_csm (s : State) (p : Spe) : (s.withSpe p).csm = s.csm := rfl
@[simp] theorem State.withSpe_asleep (s : State) (p : Spe) : (s.withSpe p).asleep = s.asleep := rfl
@[simp] theorem State.withSpe_nvm (s : State) (p : Spe) : (s.withSpe p).nvm = s.nvm := rfl
@[simp] theorem State.withSpe_cfg (s : State) (p : Spe) : (s.withSpe p).cfg = s.cfg := rfl
@[simp] theorem State.withSpe_job (s : State) (p : Spe) : (s.withSpe p).job = s.job := rfl
@[simp] theorem State.withSpe_pending (s : State) (p : Spe) : (s.withSpe p).pending = s.pending := rfl
@[simp] theorem State.withSpe_foreground (s : State) (p : Spe) : (s.withSpe p).foreground = s.foreground := rfl
@[simp] theorem State.withSpe_out (s : State) (p : Spe) : (s.withSpe p).out = s.out := rfl
@[simp] theorem State.withSpe_epoch (s : State) (p : Spe) : (s.withSpe p).epoch = s.epoch := rfl

@[simp] theorem State.withCsm_acq (s : State) (c : Csm) : (s.withCsm c).acq = s.acq := rfl
@[simp] theorem State.withCsm_spe (s : State) (c : Csm) : (s.withCsm c).spe = s.spe := rfl
@[simp] theorem State.withCsm_csm (s : State) (c : Csm) : (s.withCsm c).csm = c := rfl
@[simp] theorem State.withCsm_asleep (s : State) (c : Csm) : (s.withCsm c).asleep = s.asleep := rfl
@[simp] theorem State.withCsm_nvm (s : State) (c : Csm) : (s.withCsm c).nvm = s.nvm := rfl
@[simp] theorem State.withCsm_cfg (s : State) (c : Csm) : (s.withCsm c).cfg = s.cfg := rfl
@[simp] theorem State.withCsm_job (s : State) (c : Csm) : (s.withCsm c).job = s.job := rfl
@[simp] theorem State.withCsm_pending (s : State) (c : Csm) : (s.withCsm c).pending = s.pending := rfl
@[simp] theorem State.withCsm_foreground (s : State) (c : Csm) : (s.withCsm c).foreground = s.foreground := rfl
@[simp] theorem State.withCsm_out (s : State) (c : Csm) : (s.withCsm c).out = s.out := rfl
@[simp] theorem State.withCsm_epoch (s : State) (c : Csm) : (s.withCsm c).epoch = s.epoch := rfl

@[simp] theorem State.withAsleep_acq (s : State) (b : Bool) : (s.withAsleep b).acq = s.acq := rfl
@[simp] theorem State.withAsleep_spe (s : State) (b : Bool) : (s.withAsleep b).spe = s.spe := rfl
@[simp] theorem State.withAsleep_csm (s : State) (b : Bool) : (s.withAsleep b).csm = s.csm := rfl
@[simp] theorem State.withAsleep_asleep (s : State) (b : Bool) : (s.withAsleep b).asleep = b := rfl
@[simp] theorem State.withAsleep_nvm (s : State) (b : Bool) : (s.withAsleep b).nvm = s.nvm := rfl
@[simp] theorem State.withAsleep_cfg (s : State) (b : Bool) : (s.withAsleep b).cfg = s.cfg := rfl
@[simp] theorem State.withAsleep_job (s : State) (b : Bool) : (s.withAsleep b).job = s.job := rfl
@[simp] theorem State.withAsleep_pending (s : State) (b : Bool) : (s.withAsleep b).pending = s.pending := rfl
@[simp] theorem State.withAsleep_foreground (s : State) (b : Bool) : (s.withAsleep b).foreground = s.foreground := rfl
@[simp] theorem State.withAsleep_out (s : State) (b : Bool) : (s.withAsleep b).out = s.out := rfl
@[simp] theorem State.withAsleep_epoch (s : State) (b : Bool) : (s.withAsleep b).epoch = s.epoch := rfl

@[simp] theorem State.withNvm_acq (s : State) (m : Memory) : (s.withNvm m).acq = s.acq := rfl
@[simp] theorem State.withNvm_spe (s : State) (m : Memory) : (s.withNvm m).spe = s.spe := rfl
@[simp] theorem State.withNvm_csm (s : State) (m : Memory) : (s.withNvm m).csm = s.csm := rfl
@[simp] theorem State.withNvm_asleep (s : State) (m : Memory) : (s.withNvm m).asleep = s.asleep := rfl
@[simp] theorem State.withNvm_nvm (s : State) (m : Memory) : (s.withNvm m).nvm = m := rfl
@[simp] theorem State.withNvm_cfg (s : State) (m : Memory) : (s.withNvm m).cfg = s.cfg := rfl
@[simp] theorem State.withNvm_job (s : State) (m : Memory) : (s.withNvm m).job = s.job := rfl
@[simp] theorem State.withNvm_pending (s : State) (m : Memory) : (s.withNvm m).pending = s.pending := rfl
@[simp] theorem State.withNvm_foreground (s : State) (m : Memory) : (s.withNvm m).foreground = s.foreground := rfl
@[simp] theorem State.withNvm_out (s : State) (m : Memory) : (s.withNvm m).out = s.out := rfl
@[simp] theorem State.withNvm_epoch (s : State) (m : Memory) : (s.withNvm m).epoch = s.epoch := rfl

@[simp] theorem State.withJob_acq (s : State) (j : Option StoreJob) : (s.withJob j).acq = s.acq := rfl
@[simp] theorem State.withJob_spe (s : State) (j : Option StoreJob) : (s.withJob j).spe = s.spe := rfl
@[simp] theorem State.withJob_csm (s : State) (j : Option StoreJob) : (s.withJob j).csm = s.csm := rfl
@[simp] theorem State.withJob_asleep (s : State) (j : Option StoreJob) : (s.withJob j).asleep = s.asleep := rfl
@[simp] theorem State.withJob_nvm (s : State) (j : Option StoreJob) : (s.withJob j).nvm = s.nvm := rfl
@[simp] theorem State.withJob_cfg (s : State) (j : Option StoreJob) : (s.withJob j).cfg = s.cfg := rfl
@[simp] theorem State.withJob_job (s : State) (j : Option StoreJob) : (s.withJob j).job = j := rfl
@[simp] theorem State.withJob_pending (s : State) (j : Option StoreJob) : (s.withJob j).pending = s.pending := rfl
@[simp] theorem State.withJob_foreground (s : State) (j : Option StoreJob) : (s.withJob j).foreground = s.foreground := rfl
@[simp] theorem State.withJob_out (s : State) (j : Option StoreJob) : (s.withJob j).out = s.out := rfl
@[simp] theorem State.withJob_epoch (s : State) (j : Option StoreJob) : (s.withJob j).epoch = s.epoch := rfl

@[simp] theorem State.withPending_acq (s : State) (l : List Input) : (s.withPending l).acq = s.acq := rfl
@[simp] theorem State.withPending_spe (s : State) (l : List Input) : (s.withPending l).spe = s.spe := rfl
@[simp] theorem State.withPending_csm (s : State) (l : List Input) : (s.withPending l).csm = s.csm := rfl
@[simp] theorem State.withPending_asleep (s : State) (l : List Input) : (s.withPending l).asleep = s.asleep := rfl
@[simp] theorem State.withPending_nvm (s : State) (l : List Input) : (s.withPending l).nvm = s.nvm := rfl
@[simp] theorem State.withPending_cfg (s : State) (l : List Input) : (s.withPending l).cfg = s.cfg := rfl
@[simp] theorem State.withPending_job (s : State) (l : List Input) : (s.withPending l).job = s.job := rfl
@[simp] theorem State.withPending_pending (s : State) (l : List Input) : (s.withPending l).pending = l := rfl
@[simp] theorem State.withPending_foreground (s : State) (l : List Input) : (s.withPending l).foreground = s.foreground := rfl
@[simp] theorem State.withPending_out (s : State) (l : List Input) : (s.withPending l).out = s.out := rfl
@[simp] theorem State.withPending_epoch (s : State) (l : List Input) : (s.withPending l).epoch = s.epoch := rfl

@[simp] theorem State.withForeground_acq (s : State) (p : FgPos) : (s.withForeground p).acq = s.acq := rfl
@[simp] theorem State.withForeground_spe (s : State) (p : FgPos) : (s.withForeground p).spe = s.spe := rfl
@[simp] theorem State.withForeground_csm (s : State) (p : FgPos) : (s.withForeground p).csm = s.csm := rfl
@[simp] theorem State.withForeground_asleep (s : State) (p : FgPos) : (s.withForeground p).asleep = s.asleep := rfl
@[simp] theorem State.withForeground_nvm (s : State) (p : FgPos) : (s.withForeground p).nvm = s.nvm := rfl
@[simp] theorem State.withForeground_cfg (s : State) (p : FgPos) : (s.withForeground p).cfg = s.cfg := rfl
@[simp] theorem State.withForeground_job (s : State) (p : FgPos) : (s.withForeground p).job = s.job := rfl
@[simp] theorem State.withForeground_pending (s : State) (p : FgPos) : (s.withForeground p).pending = s.pending := rfl
@[simp] theorem State.withForeground_foreground (s : State) (p : FgPos) : (s.withForeground p).foreground = p := rfl
@[simp] theorem State.withForeground_out (s : State) (p : FgPos) : (s.withForeground p).out = s.out := rfl
@[simp] theorem State.withForeground_epoch (s : State) (p : FgPos) : (s.withForeground p).epoch = s.epoch := rfl

@[simp] theorem State.withOut_acq (s : State) (o : StepOutput) : (s.withOut o).acq = s.acq := rfl
@[simp] theorem State.withOut_spe (s : State) (o : StepOutput) : (s.withOut o).spe = s.spe := rfl
@[simp] theorem State.withOut_csm (s : State) (o : StepOutput) : (s.withOut o).csm = s.csm := rfl
@[simp] theorem State.withOut_asleep (s : State) (o : StepOutput) : (s.withOut o).asleep = s.asleep := rfl
@[simp] theorem State.withOut_nvm (s : State) (o : StepOutput) : (s.withOut o).nvm = s.nvm := rfl
@[simp] theorem State.withOut_cfg (s : State) (o : StepOutput) : (s.withOut o).cfg = s.cfg := rfl
@[simp] theorem State.withOut_job (s : State) (o : StepOutput) : (s.withOut o).job = s.job := rfl
@[simp] theorem State.withOut_pending (s : State) (o : StepOutput) : (s.withOut o).pending = s.pending := rfl
@[simp] theorem State.withOut_foreground (s : State) (o : StepOutput) : (s.withOut o).foreground = s.foreground := rfl
@[simp] theorem State.withOut_out (s : State) (o : StepOutput) : (s.withOut o).out = o := rfl
@[simp] theorem State.withOut_epoch (s : State) (o : StepOutput) : (s.withOut o).epoch = s.epoch + 1 := rfl

@[simp] theorem State.wake_acq (s : State) : s.wake.acq = s.acq := rfl
@[simp] theorem State.wake_spe (s : State) : s.wake.spe = s.spe := rfl
@[simp] theorem State.wake_csm (s : State) : s.wake.csm = s.csm := rfl
@[simp] theorem State.wake_asleep (s : State) : s.wake.asleep = false := rfl
@[simp] theorem State.wake_nvm (s : State) : s.wake.nvm = s.nvm := rfl
@[simp] theorem State.wake_cfg (s : State) : s.wake.cfg = s.cfg := rfl
@[simp] theorem State.wake_job (s : State) : s.wake.job = s.job := rfl
@[simp] theorem State.wake_pending (s : State) : s.wake.pending = s.pending := rfl
@[simp] theorem State.wake_foreground (s : State) : s.wake.foreground = s.foreground := rfl
@[simp] theorem State.wake_out (s : State) : s.wake.out = s.out := rfl
@[simp] theorem State.wake_epoch (s : State) : s.wake.epoch = s.epoch := rfl

@[simp] theorem restartState_acq (s : State) : (restartState s).acq = Acq.reset := rfl
@[simp] theorem restartState_spe (s : State) : (restartState s).spe = Spe.reset := rfl
@[simp] theorem restartState_csm (s : State) : (restartState s).csm = Csm.reset := rfl
@[simp] theorem restartState_asleep (s : State) : (restartState s).asleep = false := rfl
@[simp] theorem restartState_nvm (s : State) : (restartState s).nvm = s.nvm := rfl
@[simp] theorem restartState_cfg (s : State) : (restartState s).cfg = s.cfg := rfl
@[simp] theorem restartState_job (s : State) : (restartState s).job = none := rfl
@[simp] theorem restartState_pending (s : State) : (restartState s).pending = s.pending := rfl
@[simp] theorem restartState_foreground (s : State) : (restartState s).foreground = .boot1 := rfl
@[simp] theorem restartState_out (s : State) : (restartState s).out = s.out := rfl
@[simp] theorem restartState_epoch (s : State) : (restartState s).epoch = s.epoch := rfl

end Sys2Proof.Machine
end

