-- ==== Sys2Proof/Laws/Ops.lean ====
section
/-! SUPPORT. What each shared operation can do, said once: if it answers a next state, then these hold. -/

namespace Sys2Proof.Machine

theorem completeWith_next {s t : State} {d0 d1 d2 : RspField} {c w : Bool} :
    completeWith s d0 d1 d2 c w = .next t ↔ t = s.withOut ⟨some ⟨.ok, d0, d1, d2⟩, c, w⟩ := by
  simp [completeWith, eq_comm]

theorem complete_next {s t : State} {d0 d1 d2 : RspField} :
    complete s d0 d1 d2 = .next t ↔ t = s.withOut ⟨some ⟨.ok, d0, d1, d2⟩, false, false⟩ :=
  completeWith_next

theorem completed_next {s t : State} :
    completed s = .next t ↔ t = s.withOut ⟨some ⟨.ok, .none, .none, .none⟩, false, false⟩ :=
  completeWith_next

/-- A named error writes no state element: only the response is new. -/
theorem raiseError_next {s t : State} {st : Status} :
    raiseError s st = .next t ↔ t = s.withOut
      ⟨some ⟨st, Config.freeResponse s.epoch 0, Config.freeResponse s.epoch 1,
        Config.freeResponse s.epoch 2⟩, false, false⟩ := by
  simp [raiseError, eq_comm]

theorem foregroundOp_next {ctx : Ctx} {s t : State} {body : Result} :
    foregroundOp ctx s body = .next t ↔
      wellFormed s.cfg = true ∧ ctx = .fg ∧ s.asleep = false ∧ s.job = none ∧ body = .next t := by
  unfold foregroundOp
  cases h1 : wellFormed s.cfg <;> cases ctx <;> cases h2 : s.asleep <;> cases h3 : s.job <;> simp

theorem foregroundEvent_next {ctx : Ctx} {s t : State} {body : Result} :
    foregroundEvent ctx s body = .next t ↔
      wellFormed s.cfg = true ∧ ctx = .fg ∧ s.asleep = false ∧ s.job = none ∧ body = .next t := by
  unfold foregroundEvent
  cases h1 : wellFormed s.cfg <;> cases ctx <;> cases h2 : s.asleep <;> cases h3 : s.job <;> simp

theorem interruptOp_next {ctx : Ctx} {s t : State} {body : Result} :
    interruptOp ctx s body = .next t ↔ wellFormed s.cfg = true ∧ ctx = .int ∧ body = .next t := by
  unfold interruptOp
  cases h1 : wellFormed s.cfg <;> cases ctx <;> simp

theorem eitherOp_next {ctx : Ctx} {s t : State} {body : Result} :
    eitherOp ctx s body = .next t ↔
      wellFormed s.cfg = true ∧ (ctx = .fg → s.asleep = false ∧ s.job = none) ∧ body = .next t := by
  unfold eitherOp
  cases h1 : wellFormed s.cfg <;> cases ctx <;> cases h2 : s.asleep <;> cases h3 : s.job <;> simp

theorem anyOp_next {s t : State} {body : Result} :
    anyOp s body = .next t ↔ wellFormed s.cfg = true ∧ body = .next t := by
  unfold anyOp
  cases h1 : wellFormed s.cfg <;> simp

/-- A store writer runs only while acquisition is stopped (R167). -/
theorem storeWriter_next {ctx : Ctx} {s t : State} {body : Result} :
    storeWriter ctx s body = .next t ↔
      wellFormed s.cfg = true ∧ ctx = .fg ∧ s.asleep = false ∧ s.job = none ∧ s.acq.run = false
        ∧ body = .next t := by
  unfold storeWriter
  rw [foregroundOp_next]
  cases s.acq.run <;> simp

/-- An element is read only when it is written (R21). -/
theorem readElement_next {α : Type} {e : Element α} {name : String} {k : α → Result} {t : State} :
    readElement e name k = .next t ↔ ∃ v, e = .written v ∧ k v = .next t := by
  cases e <;> simp [readElement]

theorem readSelected_next {sel : Bool} {e : Element Bool} {name : String} {k : Bool → Result} {t : State} :
    readSelected sel e name k = .next t ↔
      (sel = true ∧ ∃ v, e = .written v ∧ k v = .next t) ∨ (sel = false ∧ k false = .next t) := by
  cases sel <;> simp [readSelected, readElement_next]

theorem memWrite_eq_some {s : State} {a n v : Nat} {m : Memory} :
    memWrite s a n v = some m ↔ a + n ≤ s.cfg.nvmSize ∧ m = writeLE s.nvm a n v := by
  unfold memWrite
  split <;> simp_all [eq_comm]

theorem memRead_eq_some {s : State} {a n v : Nat} :
    memRead s a n = some v ↔ a + n ≤ s.cfg.nvmSize ∧ v = readLE s.nvm a n := by
  unfold memRead
  split <;> simp_all [eq_comm]

theorem storing_next {s t : State} {a n v : Nat} {k : State → Result} :
    storing s a n v k = .next t ↔ a + n ≤ s.cfg.nvmSize ∧ k (s.withNvm (writeLE s.nvm a n v)) = .next t := by
  unfold storing memWrite
  split <;> split at * <;> simp_all

theorem loading_next {s t : State} {a n : Nat} {k : Nat → Result} :
    loading s a n k = .next t ↔ a + n ≤ s.cfg.nvmSize ∧ k (readLE s.nvm a n) = .next t := by
  unfold loading memRead
  split <;> split at * <;> simp_all

/-- The store, the job and the response are all that a step of the store reset writes (R162). -/
theorem storeStep_next {j : StoreJob} {s t : State} (h : storeStep j s = .next t) :
    (∃ e, schemaAt s.cfg j.next = some e
      ∧ slot s.cfg j.next + s.cfg.stride ≤ s.cfg.nvmSize
      ∧ t = (((s.withNvm (writeLE s.nvm (slot s.cfg j.next) s.cfg.stride (encodeValue s.cfg e.default))).withJob
          (some ⟨j.next + 1, j.fromInit⟩)).withOut StepOutput.quiet))
    ∨ (schemaAt s.cfg j.next = none ∧ 0 + 2 ≤ s.cfg.nvmSize
      ∧ t = ((s.withNvm (writeLE s.nvm 0 2 (expectedChecksum s.cfg).toNat)).withJob none).withOut
          ⟨some ⟨.ok, if j.fromInit then resultBit true else .none, .none, .none⟩, false, false⟩) := by
  unfold storeStep at h
  split at h
  · rename_i e he
    rw [storing_next] at h
    obtain ⟨hle, ht⟩ := h
    exact .inl ⟨e, he, hle, by simpa [eq_comm] using ht⟩
  · rename_i he
    rw [storing_next, complete_next] at h
    exact .inr ⟨he, h⟩

/-- A store reset goes on only while acquisition is stopped (R240, log entry 9). -/
theorem continueStore_next {j : StoreJob} {s t : State} :
    continueStore j s = .next t ↔
      wellFormed s.cfg = true ∧ s.acq.run = false ∧ storeStep j s = .next t := by
  unfold continueStore
  cases h : wellFormed s.cfg <;> cases h2 : s.acq.run <;> simp

end Sys2Proof.Machine
end

