-- ==== Sys2Proof/Laws/Configuration.lean ====
section
/-! SUPPORT. What a well-formed configuration gives (R9, R10): each constraint as a proposition, the offsets
that lie inside the memory (R61), and the prescaler the search finds (R101). -/

namespace Sys2Proof.Machine

/-- The constraints of R9 the meanings lean on. -/
theorem wellFormed_bounds {c : Config} (h : wellFormed c = true) :
    1 ≤ c.rawBits ∧ c.rawBits ≤ 16 ∧ c.rawBits + 4 ≤ c.accBits ∧ 0 < c.fs
      ∧ (timerChoice c c.fs).isSome = true ∧ 1 ≤ c.cntBits ∧ 1 ≤ c.blinkTicks
      ∧ c.onDelay < 2 ^ c.cntBits - 1 ∧ 5 ≤ paramCount c
      ∧ (c.stride = 1 ∨ c.stride = 2 ∨ c.stride = 4) ∧ 2 + c.stride * paramCount c ≤ c.nvmSize := by
  unfold wellFormed at h
  simp at h
  tauto

/-- The scale of the power is not at most zero (R9). -/
theorem wellFormed_kappa {c : Config} (h : wellFormed c = true) :
    (numOf c).le c.kappa (numOf c).zero = false := by
  unfold wellFormed at h
  simp at h
  tauto

/-- The five named indices lie inside the table (R9). -/
theorem wellFormed_indices {c : Config} (h : wellFormed c = true) :
    c.idxHigh < c.schema.length ∧ c.idxDelay < c.schema.length ∧ c.idxRatio < c.schema.length
      ∧ c.idxFreq < c.schema.length ∧ c.idxMode < c.schema.length := by
  have hi : indicesOk c = true := by
    unfold wellFormed at h
    simp only [Bool.and_eq_true] at h
    tauto
  unfold indicesOk paramCount at hi
  simp only [List.all_cons, List.all_nil, Bool.and_eq_true, decide_eq_true_eq] at hi
  tauto

/-- No converted off delay reaches the largest counter value (R9, R239). -/
theorem offDelayOf_lt {c : Config} (h : wellFormed c = true) (v : Int) :
    offDelayOf c v < 2 ^ c.cntBits - 1 := by
  have hm : c.offDelayMax < 2 ^ c.cntBits - 1 := by
    unfold wellFormed at h
    simp only [Bool.and_eq_true, decide_eq_true_eq] at h
    tauto
  exact lt_of_le_of_lt (Nat.min_le_right _ _) hm

/-- Every slot of the table lies inside the memory (R61). -/
theorem slot_inside {c : Config} (h : wellFormed c = true) {i : Nat} (hi : i < c.schema.length) :
    slot c i + c.stride ≤ c.nvmSize := by
  obtain ⟨_, _, _, _, _, _, _, _, _, _, hn⟩ := wellFormed_bounds h
  have hm := Nat.mul_le_mul_left c.stride (show i + 1 ≤ c.schema.length from hi)
  rw [Nat.mul_add] at hm
  unfold paramCount at hn
  unfold slot
  omega

/-- The checksum lies inside the memory (R61). -/
theorem checksum_inside {c : Config} (h : wellFormed c = true) : 0 + 2 ≤ c.nvmSize := by
  have := wellFormed_bounds h
  omega

theorem schemaAt_lt {c : Config} {i : Nat} {e : ParamSchema} (h : schemaAt c i = some e) :
    i < c.schema.length := by
  by_contra hn
  rw [schemaAt, List.getElem?_eq_none (by omega)] at h
  cases h

theorem loading_inside {s : State} {a n : Nat} {k : Nat → Result} (h : a + n ≤ s.cfg.nvmSize) :
    loading s a n k = k (readLE s.nvm a n) := by
  simp [loading, memRead, h]

theorem storing_inside {s : State} {a n v : Nat} {k : State → Result} (h : a + n ≤ s.cfg.nvmSize) :
    storing s a n v k = k (s.withNvm (writeLE s.nvm a n v)) := by
  simp [storing, memWrite, h]

/-- The search answers the first prescaler that fits (R101). -/
theorem firstFit_some {c : Config} {rate : Nat} {l : List Nat} {p q : Nat}
    (h : firstFit c rate l = some (p, q)) :
    ∃ before after, l = before ++ p :: after
      ∧ (∀ x ∈ before, ¬ (1 ≤ compareValue c rate x ∧ compareValue c rate x ≤ c.timerMax))
      ∧ q = compareValue c rate p ∧ 1 ≤ q ∧ q ≤ c.timerMax := by
  induction l with
  | nil => cases h
  | cons x l ih =>
    unfold firstFit at h
    split at h
    · simp only [Option.some.injEq, Prod.mk.injEq] at h
      obtain ⟨rfl, rfl⟩ := h
      exact ⟨[], l, rfl, by simp, rfl, by assumption⟩
    · obtain ⟨b, a, h1, h2, h3⟩ := ih h
      refine ⟨x :: b, a, by simp [h1], ?_, h3⟩
      intro y hy
      rcases List.mem_cons.1 hy with rfl | hy
      · assumption
      · exact h2 y hy

end Sys2Proof.Machine
end

