-- ==== Sys2Proof/Laws/Runs.lean ====
section
/-! SUPPORT. The runs of `Sys2Proof/Safety.lean`, one step at a time. -/

namespace Sys2Proof.Machine

@[simp] theorem andThen_next (t : State) (k : State → Result) : andThen (.next t) k = k t := rfl
@[simp] theorem andThen_fault (f : Fault) (k : State → Result) : andThen (.fault f) k = .fault f := rfl
@[simp] theorem andThen_refused (f : Refusal) (k : State → Result) :
    andThen (.refused f) k = .refused f := rfl

/-- A run of two parts goes on exactly when its first part does. -/
theorem andThen_eq_next {r : Result} {k : State → Result} {u : State} :
    andThen r k = .next u ↔ ∃ t, r = .next t ∧ k t = .next u := by
  cases r <;> simp

@[simp] theorem execAll_nil (s : State) : execAll [] s = .next s := rfl
theorem execAll_cons (i : Instr) (is : List Instr) (s : State) :
    execAll (i :: is) s = andThen (exec i s) (execAll is) := rfl

theorem execAll_cons_next {i : Instr} {is : List Instr} {s u : State} :
    execAll (i :: is) s = .next u ↔ ∃ t, exec i s = .next t ∧ execAll is t = .next u :=
  andThen_eq_next

theorem execAll_append (is js : List Instr) (s : State) :
    execAll (is ++ js) s = andThen (execAll is s) (execAll js) := by
  induction is generalizing s with
  | nil => rfl
  | cons i is ih =>
    rw [List.cons_append, execAll_cons, execAll_cons]
    cases exec i s <;> simp [ih]

theorem execAll_append_next {is js : List Instr} {s u : State} :
    execAll (is ++ js) s = .next u ↔ ∃ t, execAll is s = .next t ∧ execAll js t = .next u := by
  rw [execAll_append, andThen_eq_next]

@[simp] theorem storeSteps_zero (s : State) : storeSteps 0 s = .next s := rfl
theorem storeSteps_succ (k : Nat) (s : State) :
    storeSteps (k + 1) s = andThen (storeOnce s) (storeSteps k) := rfl

theorem storeOnce_idle {s : State} (h : s.job = none) : storeOnce s = .next s := by
  simp [storeOnce, h]

theorem storeOnce_busy {s : State} {j : StoreJob} (h : s.job = some j) :
    storeOnce s = continueStore j s := by
  simp [storeOnce, h]

/-- Once the reset has ended, nothing more happens. -/
theorem storeSteps_idle {s : State} (h : s.job = none) (k : Nat) : storeSteps k s = .next s := by
  induction k with
  | zero => rfl
  | succ k ih => rw [storeSteps_succ, storeOnce_idle h, andThen_next, ih]

end Sys2Proof.Machine
end

