-- ==== Sys2Proof/Laws/Exec.lean ====
section
/-! SUPPORT. What each operation can do, said once: if `exec` answers a next state, then its guards held and
the next state is this one. No later proof need unfold a meaning. -/

namespace Sys2Proof.Machine

theorem answer_eq (s : State) (a b c : RspField) :
    answer s a b c = s.withOut ⟨some ⟨.ok, a, b, c⟩, false, false⟩ := rfl

theorem exec_acqInit_next {c : Ctx} {rate : Word} {s t : State} (h : exec (.acqInit c rate) s = .next t) :
    wellFormed s.cfg = true ∧ (c = .fg → s.asleep = false ∧ s.job = none) ∧ rate.toNat = s.cfg.fs
      ∧ ∃ p q, timerChoice s.cfg s.cfg.fs = some (p, q)
        ∧ t = answer (s.withAcq
          { run := true, feEn := false, convBusy := false, sum := .written 0, cnt := .written 0,
            value := s.acq.value, newValue := .written false, newConv := .written false,
            presc := .written p, cmp := .written q }) .none .none .none := by
  simp only [exec] at h
  rw [execAcqInit, eitherOp_next] at h
  obtain ⟨h1, h2, h3⟩ := h
  refine ⟨h1, h2, ?_⟩
  split at h3 <;> [cases h3; skip]
  rename_i hr
  simp [unsignedOperand] at hr
  simp only [unsignedOperand, hr] at h3
  split at h3 <;> [cases h3; skip]
  rw [completed_next] at h3
  exact ⟨hr, _, _, ‹_›, h3⟩

theorem exec_acqShutdown_next {c : Ctx} {s t : State} (h : exec (.acqShutdown c) s = .next t) :
    wellFormed s.cfg = true ∧ (c = .fg → s.asleep = false ∧ s.job = none)
      ∧ t = answer (s.withAcq { s.acq with run := false, feEn := false, convBusy := false })
        .none .none .none := by
  simp only [exec] at h
  rw [execAcqShutdown, eitherOp_next, completed_next] at h
  exact h

theorem exec_acqPeriod_next {c : Ctx} {s t : State} (h : exec (.acqPeriod c) s = .next t) :
    wellFormed s.cfg = true ∧ c = .int ∧ s.acq.run = true
      ∧ t = answer (s.withAcq { s.acq with feEn := true, newConv := .written true }).wake
        .none .none .none := by
  simp only [exec] at h
  rw [execAcqPeriod, interruptOp_next] at h
  obtain ⟨h1, h2, h3⟩ := h
  split at h3 <;> [cases h3; skip]
  rw [completed_next] at h3
  exact ⟨h1, h2, by simp_all, h3⟩

theorem exec_acqConv_next {c : Ctx} {raw : Word} {s t : State} (h : exec (.acqConv c raw) s = .next t) :
    wellFormed s.cfg = true ∧ c = .int ∧ s.acq.run = true ∧ s.acq.feEn = true ∧ s.acq.convBusy = true
      ∧ inSigned s.cfg.rawBits raw.toInt = true
      ∧ ∃ sum cnt, s.acq.sum = .written sum ∧ s.acq.cnt = .written cnt
        ∧ t = answer (s.withAcq (converted s.acq (sum + sext 16 raw.toInt) (cnt + 1))).wake
          .none .none .none := by
  simp only [exec] at h
  rw [execAcqConv, interruptOp_next] at h
  obtain ⟨h1, h2, h3⟩ := h
  split at h3 <;> [cases h3; skip]
  split at h3 <;> [cases h3; skip]
  simp only [readElement_next, completed_next] at h3
  obtain ⟨a, ha, b, hb, h3⟩ := h3
  rename_i hh hh2
  simp at hh hh2
  exact ⟨h1, h2, hh.1, hh.2.1, hh.2.2, hh2, a, b, ha, hb, h3⟩

theorem exec_acqTake_next {c : Ctx} {sel : Word} {s t : State} (h : exec (.acqTake c sel) s = .next t) :
    wellFormed s.cfg = true ∧ c = .fg ∧ s.asleep = false ∧ s.job = none ∧ sel.toNat < 4
      ∧ (selects sel 0 = true → s.acq.newValue.isWritten = true)
      ∧ (selects sel 1 = true → s.acq.newConv.isWritten = true)
      ∧ ∃ a b, t = answer (s.withAcq
        { s.acq with
          newValue := takenFlag (selects sel 0) s.acq.newValue,
          newConv := takenFlag (selects sel 1) s.acq.newConv }) a b .none := by
  simp only [exec] at h
  rw [execAcqTake, foregroundOp_next] at h
  obtain ⟨h1, h2, h3, h4, h5⟩ := h
  split at h5 <;> [cases h5; skip]
  rename_i hr
  refine ⟨h1, h2, h3, h4, by simpa [unsignedOperand] using hr, ?_⟩
  simp only [readSelected_next] at h5
  rcases h5 with ⟨x0, v0, w0, h5⟩ | ⟨x0, h5⟩ <;> rcases h5 with ⟨x1, v1, w1, h5⟩ | ⟨x1, h5⟩ <;>
    split at h5 <;> (try (rename_i hF; exact absurd hF (by decide))) <;>
    simp only [readElement_next, complete_next] at h5 <;>
    first
    | (obtain ⟨v, hv, h5⟩ := h5
       exact ⟨by simp [Element.isWritten, *], by simp [Element.isWritten, *], _, _, h5⟩)
    | exact ⟨by simp [Element.isWritten, *], by simp [Element.isWritten, *], _, _, h5⟩

theorem exec_speInit_next {c : Ctx} {f : RealNum} {s t : State} (h : exec (.speInit c f) s = .next t) :
    wellFormed s.cfg = true ∧ c = .fg ∧ s.asleep = false ∧ s.job = none
      ∧ t = answer (s.withSpe
        { s.spe with
          coeff := .written ((numOf s.cfg).coeff f s.cfg.fs), n := .written (windowLength s.cfg) })
        .none .none .none := by
  simp only [exec] at h
  rw [execSpeInit, foregroundOp_next, completed_next] at h
  exact h

theorem exec_speFeed_next {c : Ctx} {x : Word} {s t : State} (h : exec (.speFeed c x) s = .next t) :
    wellFormed s.cfg = true ∧ c = .fg ∧ s.asleep = false ∧ s.job = none
      ∧ inSigned (dsBits s.cfg) x.toInt = true
      ∧ ∃ coeff n s1 s2 k, s.spe.coeff = .written coeff ∧ s.spe.n = .written n ∧ s.spe.s1 = .written s1
        ∧ s.spe.s2 = .written s2 ∧ s.spe.cnt = .written k ∧ k < n
        ∧ t = answer (s.withSpe (fed s.cfg s.spe coeff s1 s2 k n x.toInt))
          (resultBit (decide (k + 1 = n))) .none .none := by
  simp only [exec] at h
  rw [execSpeFeed, foregroundOp_next] at h
  obtain ⟨h1, h2, h3, h4, h5⟩ := h
  split at h5 <;> [cases h5; skip]
  rename_i hr
  simp only [readElement_next] at h5
  obtain ⟨a, ha, b, hb, d, hd, e, he, k, hk, h5⟩ := h5
  split at h5 <;> [skip; cases h5]
  rw [complete_next] at h5
  exact ⟨h1, h2, h3, h4, by simpa [signedOperand] using hr, a, b, d, e, k, ha, hb, hd, he, hk, ‹_›, h5⟩

theorem exec_speReset_next {c : Ctx} {s t : State} (h : exec (.speReset c) s = .next t) :
    wellFormed s.cfg = true ∧ c = .fg ∧ s.asleep = false ∧ s.job = none
      ∧ t = answer (s.withSpe
        { s.spe with
          s1 := .written (numOf s.cfg).zero, s2 := .written (numOf s.cfg).zero, cnt := .written 0 })
        .none .none .none := by
  simp only [exec] at h
  rw [execSpeReset, foregroundOp_next, completed_next] at h
  exact h

theorem exec_speGetResult_next {c : Ctx} {s t : State} (h : exec (.speGetResult c) s = .next t) :
    wellFormed s.cfg = true ∧ c = .fg ∧ s.asleep = false ∧ s.job = none
      ∧ ∃ r, s.spe.result = .written r ∧ t = answer s (.real r) .none .none := by
  simp only [exec] at h
  rw [execSpeGetResult, foregroundOp_next, readElement_next] at h
  simp only [complete_next] at h
  exact h

theorem exec_csmInit_next {c : Ctx} {m : Word} {s t : State} (h : exec (.csmInit c m) s = .next t) :
    wellFormed s.cfg = true ∧ c = .fg ∧ s.asleep = false ∧ s.job = none
      ∧ ∃ k, modeOperand m = some k
        ∧ t = answer (s.withCsm ⟨.written k, .written .opened, .written 0, .written 0, .written 0⟩)
          .none .none .none := by
  simp only [exec] at h
  rw [execCsmInit, foregroundOp_next] at h
  obtain ⟨h1, h2, h3, h4, h5⟩ := h
  split at h5 <;> [cases h5; skip]
  rw [completed_next] at h5
  exact ⟨h1, h2, h3, h4, _, ‹_›, h5⟩

theorem exec_csmProcess_next {c : Ctx} {p hi lo : RealNum} {x y : Word} {s t : State}
    (h : exec (.csmProcess c p hi lo x y) s = .next t) :
    wellFormed s.cfg = true ∧ c = .fg ∧ s.asleep = false ∧ s.job = none
      ∧ x.toNat < 2 ^ s.cfg.cntBits ∧ y.toNat < 2 ^ s.cfg.cntBits
      ∧ ∃ rd a b, s.csm.rd = .written rd ∧ s.csm.above = .written a ∧ s.csm.below = .written b
        ∧ t = answer (s.withCsm
          (match rd with
          | .opened => processOpen s.cfg s.csm p hi a x.toNat
          | .closed => processClosed s.cfg s.csm p lo b y.toNat)) .none .none .none := by
  simp only [exec] at h
  rw [execCsmProcess, foregroundOp_next] at h
  obtain ⟨h1, h2, h3, h4, h5⟩ := h
  split at h5 <;> [cases h5; skip]
  rename_i hr
  simp [inUnsigned, unsignedOperand] at hr
  simp only [readElement_next] at h5
  obtain ⟨a, ha, b, hb, d, hd, h5⟩ := h5
  refine ⟨h1, h2, h3, h4, of_decide_eq_true hr.1, of_decide_eq_true hr.2, a, b, d, ha, hb, hd, ?_⟩
  split at h5 <;> rw [completed_next] at h5 <;> exact h5

theorem exec_csmShort_next {c : Ctx} {s t : State} (h : exec (.csmShort c) s = .next t) :
    wellFormed s.cfg = true ∧ c = .fg ∧ s.asleep = false ∧ s.job = none
      ∧ ∃ m, s.csm.mode = .written m
        ∧ t = answer (s.withCsm { s.csm with mode := .written (shortPush m), blink := .written 0 })
          .none .none .none := by
  simp only [exec] at h
  rw [execCsmShort, changeMode, foregroundEvent_next, readElement_next] at h
  simp only [completed_next] at h
  exact h

theorem exec_csmLong_next {c : Ctx} {s t : State} (h : exec (.csmLong c) s = .next t) :
    wellFormed s.cfg = true ∧ c = .fg ∧ s.asleep = false ∧ s.job = none
      ∧ ∃ m, s.csm.mode = .written m
        ∧ t = answer (s.withCsm { s.csm with mode := .written (longPush m), blink := .written 0 })
          .none .none .none := by
  simp only [exec] at h
  rw [execCsmLong, changeMode, foregroundEvent_next, readElement_next] at h
  simp only [completed_next] at h
  exact h

theorem exec_csmTick_next {c : Ctx} {s t : State} (h : exec (.csmTick c) s = .next t) :
    wellFormed s.cfg = true ∧ c = .fg ∧ s.asleep = false ∧ s.job = none
      ∧ ∃ b, s.csm.blink = .written b
        ∧ t = answer (s.withCsm { s.csm with blink := .written (nextBlink s.cfg b) })
          .none .none .none := by
  simp only [exec] at h
  rw [execCsmTick, foregroundOp_next, readElement_next] at h
  simp only [completed_next] at h
  exact h

theorem exec_pstInit_next {c : Ctx} {s t : State} (h : exec (.pstInit c) s = .next t) :
    wellFormed s.cfg = true ∧ c = .fg ∧ s.asleep = false ∧ s.job = none ∧ s.acq.run = false
      ∧ (readLE s.nvm 0 2 = (expectedChecksum s.cfg).toNat ∧ t = answer s (resultBit false) .none .none
        ∨ readLE s.nvm 0 2 ≠ (expectedChecksum s.cfg).toNat ∧ storeStep ⟨0, true⟩ s = .next t) := by
  simp only [exec] at h
  rw [execPstInit, storeWriter_next, loading_next] at h
  obtain ⟨h1, h2, h3, h4, h5, h6, h7⟩ := h
  refine ⟨h1, h2, h3, h4, h5, ?_⟩
  split at h7
  · exact .inr ⟨‹_›, h7⟩
  · rw [complete_next] at h7
    exact .inl ⟨by simp_all, h7⟩

theorem exec_pstResetAll_next {c : Ctx} {s t : State} (h : exec (.pstResetAll c) s = .next t) :
    wellFormed s.cfg = true ∧ c = .fg ∧ s.asleep = false ∧ s.job = none ∧ s.acq.run = false
      ∧ storeStep ⟨0, false⟩ s = .next t := by
  simp only [exec] at h
  rw [execPstResetAll, storeWriter_next] at h
  exact h

theorem exec_pstGet_next {c : Ctx} {i : Word} {s t : State} (h : exec (.pstGet c i) s = .next t) :
    wellFormed s.cfg = true ∧ c = .fg ∧ s.asleep = false ∧ s.job = none
      ∧ (schemaAt s.cfg i.toNat = none ∧ raiseError s (.indexOutOfRange i.toNat) = .next t
        ∨ (∃ e, schemaAt s.cfg i.toNat = some e) ∧ slot s.cfg i.toNat + s.cfg.stride ≤ s.cfg.nvmSize
          ∧ t = answer s (.int (decodeValue s.cfg (readLE s.nvm (slot s.cfg i.toNat) s.cfg.stride)))
            .none .none) := by
  simp only [exec] at h
  rw [execPstGet, foregroundOp_next] at h
  obtain ⟨h1, h2, h3, h4, h5⟩ := h
  refine ⟨h1, h2, h3, h4, ?_⟩
  split at h5
  · exact .inl ⟨‹_›, h5⟩
  · rw [loading_next, complete_next] at h5
    exact .inr ⟨⟨_, ‹_›⟩, h5⟩

theorem exec_pstSet_next {c : Ctx} {i v : Word} {s t : State} (h : exec (.pstSet c i v) s = .next t) :
    wellFormed s.cfg = true ∧ c = .fg ∧ s.asleep = false ∧ s.job = none ∧ s.acq.run = false
      ∧ ((∃ st, st ≠ Status.ok ∧ raiseError s st = .next t)
        ∨ ∃ e, schemaAt s.cfg i.toNat = some e ∧ e.minimum ≤ valueOperand s.cfg v
          ∧ valueOperand s.cfg v ≤ e.maximum ∧ slot s.cfg i.toNat + s.cfg.stride ≤ s.cfg.nvmSize
          ∧ t = answer (s.withNvm (writeLE s.nvm (slot s.cfg i.toNat) s.cfg.stride
            (encodeValue s.cfg (valueOperand s.cfg v)))) .none .none .none) := by
  simp only [exec] at h
  rw [execPstSet, storeWriter_next] at h
  obtain ⟨h1, h2, h3, h4, h5, h6⟩ := h
  refine ⟨h1, h2, h3, h4, h5, ?_⟩
  split at h6
  · exact .inl ⟨_, by simp, h6⟩
  · split at h6
    · exact .inl ⟨_, by simp, h6⟩
    · split at h6
      · exact .inl ⟨_, by simp, h6⟩
      · rw [storing_next, completed_next] at h6
        exact .inr ⟨_, ‹_›, by omega, by omega, h6⟩

theorem exec_pstGetRange_next {c : Ctx} {i : Word} {s t : State}
    (h : exec (.pstGetRange c i) s = .next t) :
    wellFormed s.cfg = true ∧ c = .fg ∧ s.asleep = false ∧ s.job = none
      ∧ (schemaAt s.cfg i.toNat = none ∧ raiseError s (.indexOutOfRange i.toNat) = .next t
        ∨ ∃ e, schemaAt s.cfg i.toNat = some e
          ∧ t = answer s (.int e.minimum) (.int e.maximum) (.label e.label)) := by
  simp only [exec] at h
  rw [execPstGetRange, foregroundOp_next] at h
  obtain ⟨h1, h2, h3, h4, h5⟩ := h
  refine ⟨h1, h2, h3, h4, ?_⟩
  split at h5
  · exact .inl ⟨‹_›, h5⟩
  · rw [complete_next] at h5
    exact .inr ⟨_, ‹_›, h5⟩

theorem exec_sysWait_next {c : Ctx} {s t : State} (h : exec (.sysWait c) s = .next t) :
    wellFormed s.cfg = true ∧ c = .fg ∧ s.asleep = false ∧ s.job = none
      ∧ t = ((s.withAcq { s.acq with convBusy := s.acq.convBusy || startsConversion s.acq }).withAsleep
        true).withOut ⟨some ⟨.ok, .none, .none, .none⟩, startsConversion s.acq, false⟩ := by
  simp only [exec] at h
  rw [execSysWait, foregroundOp_next, completeWith_next] at h
  exact h

theorem exec_sysWdkick_next {c : Ctx} {s t : State} (h : exec (.sysWdkick c) s = .next t) :
    wellFormed s.cfg = true ∧ c = .fg ∧ s.asleep = false ∧ s.job = none
      ∧ t = s.withOut ⟨some ⟨.ok, .none, .none, .none⟩, false, true⟩ := by
  simp only [exec] at h
  rw [execSysWdkick, foregroundOp_next, completeWith_next] at h
  exact h

theorem exec_sysSerial_next {c : Ctx} {s t : State} (h : exec (.sysSerial c) s = .next t) :
    wellFormed s.cfg = true ∧ c = .int ∧ t = answer s.wake .none .none .none := by
  simp only [exec] at h
  rw [execSysSerial, interruptOp_next, completed_next] at h
  exact h

theorem exec_sysRestart_next {c : Ctx} {s t : State} (h : exec (.sysRestart c) s = .next t) :
    wellFormed s.cfg = true ∧ t = answer (restartState s) .none .none .none := by
  simp only [exec] at h
  rw [execSysRestart, anyOp_next, completed_next] at h
  exact h

end Sys2Proof.Machine
end

