-- ==== Sys2Proof/Laws/PerInstr.lean ====
section
/-! SUPPORT. Statements about every operation as syntax, one lemma per constructor. -/

namespace Sys2Proof.Laws

/-- The record an operation is encoded as decodes to that operation. -/
def RecordRoundTrip.Statement (i : Instr) : Prop :=
  decode (encode i) = .ok i

theorem RecordRoundTrip.acqInit (ctx : Ctx) (rate : Word) :
    RecordRoundTrip.Statement (.acqInit ctx rate) := rfl
theorem RecordRoundTrip.acqShutdown (ctx : Ctx) :
    RecordRoundTrip.Statement (.acqShutdown ctx) := rfl
theorem RecordRoundTrip.acqPeriod (ctx : Ctx) :
    RecordRoundTrip.Statement (.acqPeriod ctx) := rfl
theorem RecordRoundTrip.acqConv (ctx : Ctx) (raw : Word) :
    RecordRoundTrip.Statement (.acqConv ctx raw) := rfl
theorem RecordRoundTrip.acqTake (ctx : Ctx) (sel : Word) :
    RecordRoundTrip.Statement (.acqTake ctx sel) := rfl
theorem RecordRoundTrip.speInit (ctx : Ctx) (f : RealNum) :
    RecordRoundTrip.Statement (.speInit ctx f) := rfl
theorem RecordRoundTrip.speFeed (ctx : Ctx) (x : Word) :
    RecordRoundTrip.Statement (.speFeed ctx x) := rfl
theorem RecordRoundTrip.speReset (ctx : Ctx) :
    RecordRoundTrip.Statement (.speReset ctx) := rfl
theorem RecordRoundTrip.speGetResult (ctx : Ctx) :
    RecordRoundTrip.Statement (.speGetResult ctx) := rfl
theorem RecordRoundTrip.csmInit (ctx : Ctx) (m : Word) :
    RecordRoundTrip.Statement (.csmInit ctx m) := rfl
theorem RecordRoundTrip.csmProcess (ctx : Ctx) (p : RealNum) (h : RealNum) (l : RealNum) (on : Word) (off : Word) :
    RecordRoundTrip.Statement (.csmProcess ctx p h l on off) := rfl
theorem RecordRoundTrip.csmShort (ctx : Ctx) :
    RecordRoundTrip.Statement (.csmShort ctx) := rfl
theorem RecordRoundTrip.csmLong (ctx : Ctx) :
    RecordRoundTrip.Statement (.csmLong ctx) := rfl
theorem RecordRoundTrip.csmTick (ctx : Ctx) :
    RecordRoundTrip.Statement (.csmTick ctx) := rfl
theorem RecordRoundTrip.pstInit (ctx : Ctx) :
    RecordRoundTrip.Statement (.pstInit ctx) := rfl
theorem RecordRoundTrip.pstResetAll (ctx : Ctx) :
    RecordRoundTrip.Statement (.pstResetAll ctx) := rfl
theorem RecordRoundTrip.pstGet (ctx : Ctx) (i : Word) :
    RecordRoundTrip.Statement (.pstGet ctx i) := rfl
theorem RecordRoundTrip.pstSet (ctx : Ctx) (i : Word) (v : Word) :
    RecordRoundTrip.Statement (.pstSet ctx i v) := rfl
theorem RecordRoundTrip.pstGetRange (ctx : Ctx) (i : Word) :
    RecordRoundTrip.Statement (.pstGetRange ctx i) := rfl
theorem RecordRoundTrip.sysWait (ctx : Ctx) :
    RecordRoundTrip.Statement (.sysWait ctx) := rfl
theorem RecordRoundTrip.sysWdkick (ctx : Ctx) :
    RecordRoundTrip.Statement (.sysWdkick ctx) := rfl
theorem RecordRoundTrip.sysSerial (ctx : Ctx) :
    RecordRoundTrip.Statement (.sysSerial ctx) := rfl
theorem RecordRoundTrip.sysRestart (ctx : Ctx) :
    RecordRoundTrip.Statement (.sysRestart ctx) := rfl

end Sys2Proof.Laws
end

