-- ==== Sys2Proof/Laws/Real.lean ====
section
/-! SUPPORT. The exact instance of `NUM` computes in the real numbers (R121): each of its functions gives the
sum, the difference, the product, the order or the coefficient of the real numbers denoted. -/

open Polynomial

/-! How far from zero an algebraic integer of a cyclotomic field is when it is not zero: its norm is an
integer. (Outside the package's namespaces, where `Field` is an operand field.) -/

theorem cyclotomic_gap_aux (n : ℕ) [NeZero n] (K : Type) [Field K] [NumberField K]
    [IsCyclotomicExtension {n} ℚ K] (P : ℤ[X]) (S : ℝ) (hS : 1 ≤ S)
    (hP : ∀ μ : ℂ, ‖μ‖ = 1 → ‖aeval μ P‖ ≤ S) (z : ℂ) (hz : IsPrimitiveRoot z n) (h0 : aeval z P ≠ 0) :
    1 ≤ ‖aeval z P‖ * S ^ n := by
  have hn : 0 < n := Nat.pos_of_ne_zero (NeZero.ne n)
  have hw := IsCyclotomicExtension.zeta_spec n ℚ K
  set w := IsCyclotomicExtension.zeta n ℚ K
  let e := hw.embeddingsEquivPrimitiveRoots ℂ (cyclotomic.irreducible_rat hn)
  have he : ∀ σ : K →ₐ[ℚ] ℂ, ((e σ : primitiveRoots n ℂ) : ℂ) = σ w := fun σ =>
    hw.embeddingsEquivPrimitiveRoots_apply_coe ℂ (cyclotomic.irreducible_rat hn) σ
  let σ0 : K →ₐ[ℚ] ℂ := e.symm ⟨z, (mem_primitiveRoots hn).2 hz⟩
  have hσ0 : σ0 w = z := by rw [← he]; simp [σ0]
  have hσ : ∀ σ : K →ₐ[ℚ] ℂ, σ (aeval w P) = aeval (σ w) P := fun σ =>
    (Polynomial.aeval_algHom_apply (σ.toRingHom.toIntAlgHom) w P).symm
  have hx0 : aeval w P ≠ 0 := by
    intro h
    apply h0
    rw [← hσ0, ← hσ, h, map_zero]
  have hint : IsIntegral ℤ (aeval w P) :=
    IsIntegral.of_mem_of_fg _ (hw.isIntegral hn).fg_adjoin_singleton _ (Polynomial.aeval_mem_adjoin_singleton _ _)
  obtain ⟨N, hN⟩ := IsIntegrallyClosed.isIntegral_iff.1 (Algebra.isIntegral_norm ℚ hint)
  have hN0 : N ≠ 0 := by
    rintro rfl
    rw [map_zero] at hN
    exact hx0 ((Algebra.norm_eq_zero_iff).1 hN.symm)
  have hprod := Algebra.norm_eq_prod_embeddings ℚ ℂ (aeval w P)
  have habs : (1 : ℝ) ≤ ∏ σ : K →ₐ[ℚ] ℂ, ‖σ (aeval w P)‖ := by
    rw [← norm_prod, ← hprod, ← hN]
    simp only [algebraMap_int_eq, eq_intCast, map_intCast]
    rw [Complex.norm_intCast]
    exact_mod_cast Int.one_le_abs hN0
  have hb : ∀ σ : K →ₐ[ℚ] ℂ, ‖σ (aeval w P)‖ ≤ S := fun σ => by
    rw [hσ]
    apply hP
    rw [← he]
    exact ((mem_primitiveRoots hn).1 (e σ).2).norm'_eq_one hn.ne'
  have hcard : Fintype.card (K →ₐ[ℚ] ℂ) ≤ n := by
    rw [Fintype.card_congr e]
    simp only [Fintype.card_coe, Complex.card_primitiveRoots]
    exact Nat.totient_le n
  classical
  rw [← Finset.mul_prod_erase _ _ (Finset.mem_univ σ0)] at habs
  have h1 : ∏ σ ∈ Finset.univ.erase σ0, ‖σ (aeval w P)‖ ≤ S ^ n := by
    calc _ ≤ ∏ σ ∈ Finset.univ.erase σ0, S := Finset.prod_le_prod (fun _ _ => norm_nonneg _) fun σ _ => hb σ
      _ = S ^ (Finset.univ.erase σ0).card := by simp
      _ ≤ S ^ n := pow_le_pow_right₀ hS ((Finset.card_le_univ _).trans hcard)
  rw [hσ, hσ0] at habs
  exact habs.trans (mul_le_mul_of_nonneg_left h1 (norm_nonneg _))

theorem cyclotomic_gap (n : ℕ) (hn : n ≠ 0) (P : ℤ[X]) (S : ℝ) (hS : 1 ≤ S)
    (hP : ∀ μ : ℂ, ‖μ‖ = 1 → ‖aeval μ P‖ ≤ S) (z : ℂ) (hz : IsPrimitiveRoot z n) (h0 : aeval z P ≠ 0) :
    1 ≤ ‖aeval z P‖ * S ^ n := by
  have : NeZero n := ⟨hn⟩
  have : IsCyclotomicExtension {n} ℚ (CyclotomicField n ℚ) := by
    convert CyclotomicField.isCyclotomicExtension n ℚ
    · rfl
    · exact Subsingleton.elim _ _
  exact cyclotomic_gap_aux n (CyclotomicField n ℚ) P S hS hP z hz h0

namespace Sys2Proof.Machine

/-- The real number a list of cosines denotes. -/
noncomputable def termSum (l : List CosTerm) : ℝ :=
  (l.map fun t => (t.factor : ℝ) * Real.cos (2 * Real.pi * t.turn)).sum

theorem ratAdd_eq (a b : Rat) : ratAdd a b = a + b := (Rat.add_def' a b).symm
theorem ratSub_eq (a b : Rat) : ratSub a b = a - b := (Rat.sub_def' a b).symm
theorem ratMul_eq (a b : Rat) : ratMul a b = a * b := (Rat.mul_def' a b).symm
theorem ratLe_eq (a b : Rat) : ratLe a b = decide (a ≤ b) := by simp [ratLe, Rat.le_iff]

theorem toReal_eq (x : CosSum) : x.toReal = x.rational + termSum x.cosines := rfl
@[simp] theorem termSum_nil : termSum [] = 0 := rfl
@[simp] theorem termSum_cons (t : CosTerm) (l : List CosTerm) :
    termSum (t :: l) = t.factor * Real.cos (2 * Real.pi * t.turn) + termSum l := by
  simp [termSum]
@[simp] theorem termSum_append (l m : List CosTerm) : termSum (l ++ m) = termSum l + termSum m := by
  simp [termSum]

theorem toReal_cosOfRat (q : Rat) : (CosSum.ofRat q).toReal = q := by simp [CosSum.ofRat, toReal_eq]

theorem termSum_insertCosine (t a : Rat) (l : List CosTerm) :
    termSum (insertCosine t a l) = a * Real.cos (2 * Real.pi * t) + termSum l := by
  induction l with
  | nil => unfold insertCosine; split_ifs with h <;> simp [h]
  | cons c l ih =>
    unfold insertCosine
    split_ifs with h1 h2 h3 h4
    · rw [ratAdd_eq] at h2
      have : (a : ℝ) + c.factor = 0 := by exact_mod_cast h2
      simp only [termSum_cons, ← h1]; linear_combination (-Real.cos (2 * Real.pi * t)) * this
    · simp only [termSum_cons, ratAdd_eq, ← h1]; push_cast; ring
    · simp only [termSum_cons, ih]; ring
    · simp [h4]
    · simp

theorem toReal_placeCosine (k n : Nat) (a : Rat) (x : CosSum) (hn : 0 < n) :
    (placeCosine k n a x).toReal = x.toReal + a * Real.cos (2 * Real.pi * (k / n)) := by
  have hn' : (n : ℝ) ≠ 0 := by positivity
  unfold placeCosine
  split_ifs with h1 h2 h3
  · simp [toReal_eq, h1, ratAdd_eq]; ring
  · have : (2 * Real.pi * (k / n) : ℝ) = Real.pi / 2 := by
      have : (n : ℝ) = 4 * k := by exact_mod_cast h2.symm
      rw [this] at hn' ⊢
      have : (k : ℝ) ≠ 0 := by aesop
      field_simp; norm_num
    simp [this]
  · have : (2 * Real.pi * (k / n) : ℝ) = Real.pi / 3 := by
      have : (n : ℝ) = 6 * k := by exact_mod_cast h3.symm
      rw [this] at hn' ⊢
      have : (k : ℝ) ≠ 0 := by aesop
      field_simp; norm_num
    rw [this, Real.cos_pi_div_three]
    simp [toReal_eq, ratAdd_eq, ratMul_eq, Rat.mkRat_eq_div]; ring
  · simp [toReal_eq, termSum_insertCosine, Rat.mkRat_eq_div]; ring

theorem toReal_addFolded (k n : Nat) (a : Rat) (x : CosSum) (hn : 0 < n) (hk : 2 * k ≤ n) :
    (addFolded k n a x).toReal = x.toReal + a * Real.cos (2 * Real.pi * (k / n)) := by
  have hn' : (n : ℝ) ≠ 0 := by positivity
  unfold addFolded
  split_ifs with h
  · rw [toReal_placeCosine _ _ _ _ (by omega)]
    have : (2 * Real.pi * (((n - 2 * k : Nat) : ℝ) / ((2 * n : Nat) : ℝ)))
        = Real.pi - 2 * Real.pi * ((k : ℝ) / n) := by
      push_cast [Nat.cast_sub hk]; field_simp
    rw [this, Real.cos_pi_sub, ratMul_eq]; push_cast; ring
  · exact toReal_placeCosine _ _ _ _ hn

theorem turnIndex_lt {n : Nat} (hn : n ≠ 0) (t : Rat) : turnIndex n t < n := by
  have h0 : 0 ≤ t.num * ((n / t.den : Nat) : Int) % (n : Int) := Int.emod_nonneg _ (by omega)
  have := Int.emod_lt_of_pos (t.num * ((n / t.den : Nat) : Int)) (b := (n : Int)) (by omega)
  unfold turnIndex; omega

theorem cos_turnIndex {n : Nat} (hn : n ≠ 0) {t : Rat} (hd : t.den ∣ n) :
    Real.cos (2 * Real.pi * ((turnIndex n t : ℝ) / n)) = Real.cos (2 * Real.pi * t) := by
  obtain ⟨c, hc'⟩ := hd
  have hcd : n / t.den = c := by rw [hc', Nat.mul_div_cancel_left _ t.den_pos]
  have hnR : (n : ℝ) = t.den * c := by exact_mod_cast hc'
  have hn0R : (n : ℝ) ≠ 0 := by exact_mod_cast hn
  have hc0 : (c : ℝ) ≠ 0 := by intro h; rw [h, mul_zero] at hnR; exact hn0R hnR
  have hd0 : (t.den : ℝ) ≠ 0 := by simp
  have hdecomp : (t.num : ℝ) * c = turnIndex n t + n * ((t.num * c / n : ℤ) : ℝ) := by
    have h0 : 0 ≤ t.num * (c : Int) % (n : Int) := Int.emod_nonneg _ (by omega)
    have : t.num * c = turnIndex n t + n * (t.num * c / n) := by
      rw [turnIndex, hcd, Int.toNat_of_nonneg h0]; exact (Int.emod_add_mul_ediv _ _).symm
    exact_mod_cast congrArg (Int.cast : ℤ → ℝ) this
  have ht : (t : ℝ) = (turnIndex n t + n * ((t.num * c / n : ℤ) : ℝ)) / n := by
    rw [← hdecomp, hnR, Rat.cast_def t]; field_simp
  rw [ht]
  have : 2 * Real.pi * ((turnIndex n t + n * ((t.num * c / n : ℤ) : ℝ)) / n)
      = 2 * Real.pi * (turnIndex n t / n) + ((t.num * c / n : ℤ) : ℝ) * (2 * Real.pi) := by
    field_simp
  rw [this, Real.cos_add_int_mul_two_pi]

theorem toReal_addCosine (t a : Rat) (x : CosSum) :
    (addCosine t a x).toReal = x.toReal + a * Real.cos (2 * Real.pi * t) := by
  have hd : (t.den : ℝ) ≠ 0 := by simp
  have hlt := turnIndex_lt t.den_ne_zero t
  unfold addCosine
  rw [toReal_addFolded _ _ _ _ t.den_pos (by split_ifs <;> omega),
    ← cos_turnIndex t.den_ne_zero (dvd_refl t.den)]
  split_ifs with h
  · have : (2 * Real.pi * (((t.den - turnIndex t.den t : Nat) : ℝ) / t.den))
        = 2 * Real.pi - 2 * Real.pi * ((turnIndex t.den t : ℝ) / t.den) := by
      push_cast [Nat.cast_sub hlt.le]; field_simp
    rw [this, Real.cos_two_pi_sub]
  · rfl

theorem toReal_addTerms (l : List CosTerm) (x : CosSum) :
    (addTerms l x).toReal = x.toReal + termSum l := by
  induction l with
  | nil => simp [addTerms]
  | cons t l ih =>
    have : addTerms (t :: l) x = addCosine t.turn t.factor (addTerms l x) := rfl
    rw [this, toReal_addCosine, ih, termSum_cons]; ring

theorem termSum_scaleTerms (a : Rat) (l : List CosTerm) : termSum (scaleTerms a l) = a * termSum l := by
  induction l with
  | nil => simp [scaleTerms]
  | cons t l ih =>
    have : scaleTerms a (t :: l) = ⟨t.turn, ratMul a t.factor⟩ :: scaleTerms a l := rfl
    rw [this, termSum_cons, ih, termSum_cons, ratMul_eq]; push_cast; ring

theorem termSum_productTerms (s t : CosTerm) : termSum (productTerms s t)
    = (s.factor * Real.cos (2 * Real.pi * s.turn)) * (t.factor * Real.cos (2 * Real.pi * t.turn)) := by
  simp only [productTerms, termSum_cons, termSum_nil, ratAdd_eq, ratSub_eq, ratMul_eq, Rat.mkRat_eq_div]
  push_cast
  have h1 := Real.cos_add (2 * Real.pi * s.turn) (2 * Real.pi * t.turn)
  have h2 := Real.cos_sub (2 * Real.pi * s.turn) (2 * Real.pi * t.turn)
  rw [mul_add, mul_sub, h1, h2]; ring

theorem termSum_products (l m : List CosTerm) :
    termSum (l.flatMap fun s => m.flatMap fun t => productTerms s t) = termSum l * termSum m := by
  have inner : ∀ s : CosTerm, termSum (m.flatMap fun t => productTerms s t)
      = (s.factor * Real.cos (2 * Real.pi * s.turn)) * termSum m := by
    intro s
    induction m with
    | nil => simp
    | cons t m ih => rw [List.flatMap_cons, termSum_append, termSum_productTerms, ih, termSum_cons]; ring
  induction l with
  | nil => simp
  | cons s l ih => rw [List.flatMap_cons, termSum_append, inner, ih, termSum_cons]; ring

/-- The exact sum is the sum. -/
theorem toReal_cosAdd (x y : CosSum) : (cosAdd x y).toReal = x.toReal + y.toReal := by
  rw [cosAdd, toReal_addTerms, toReal_cosOfRat, toReal_eq x, toReal_eq y]
  simp only [termSum_append, ratAdd_eq]; push_cast; ring

/-- The exact difference is the difference. -/
theorem toReal_cosSub (x y : CosSum) : (cosSub x y).toReal = x.toReal - y.toReal := by
  rw [cosSub, toReal_addTerms, toReal_cosOfRat, toReal_eq x, toReal_eq y]
  simp only [termSum_append, ratSub_eq, termSum_scaleTerms]; push_cast; ring

/-- The exact product is the product. -/
theorem toReal_cosMul (x y : CosSum) : (cosMul x y).toReal = x.toReal * y.toReal := by
  rw [cosMul, toReal_addTerms, toReal_cosOfRat, toReal_eq x, toReal_eq y]
  simp only [termSum_append, ratMul_eq, termSum_scaleTerms, termSum_products]
  push_cast; ring

/-- The terms of the recurrence of `someNonpositive`: Chebyshev's polynomials of the second kind, scaled. -/
def uSeq (y s : Int) : ℕ → ℤ
  | 0 => 1
  | 1 => 2 * y
  | j + 2 => 2 * y * uSeq y s (j + 1) - s * uSeq y s j

theorem someNonpositive_iff (y s : Int) (m j : ℕ) :
    someNonpositive y s m (uSeq y s j) (uSeq y s (j + 1)) = true ↔ ∃ i < m, uSeq y s (j + i) ≤ 0 := by
  induction m generalizing j with
  | zero => simp [someNonpositive]
  | succ m ih =>
    have h := ih (j + 1)
    rw [uSeq] at h
    rw [someNonpositive, Bool.or_eq_true, h, decide_eq_true_eq]
    constructor
    · rintro (h0 | ⟨i, hi, h1⟩)
      · exact ⟨0, by omega, h0⟩
      · exact ⟨i + 1, by omega, by rwa [show j + (i + 1) = j + 1 + i by omega]⟩
    · rintro ⟨i, hi, h1⟩
      cases i with
      | zero => exact .inl h1
      | succ i => exact .inr ⟨i, by omega, by rwa [show j + 1 + i = j + (i + 1) by omega]⟩

theorem uSeq_sin (y : Int) (k : ℕ) (φ : ℝ) (h : (y : ℝ) = 2 ^ k * Real.cos φ) (j : ℕ) :
    (uSeq y (4 ^ k) j : ℝ) * Real.sin φ = 2 ^ (k * j) * Real.sin ((j + 1) * φ) ∧
    (uSeq y (4 ^ k) (j + 1) : ℝ) * Real.sin φ = 2 ^ (k * (j + 1)) * Real.sin ((j + 2) * φ) := by
  induction j with
  | zero =>
    constructor
    · simp [uSeq]
    · simp only [uSeq]; push_cast; rw [h]
      rw [show ((0 : ℝ) + 2) * φ = 2 * φ by ring, Real.sin_two_mul]; simp; ring
  | succ j ih =>
    refine ⟨by have := ih.2; push_cast; rw [this]; ring_nf, ?_⟩
    simp only [uSeq]
    push_cast
    have h4 : (4 : ℝ) ^ k = 2 ^ k * 2 ^ k := by rw [← mul_pow]; norm_num
    have e : Real.sin ((j + 1 + 2) * φ) = 2 * Real.cos φ * Real.sin ((j + 2) * φ) - Real.sin ((j + 1) * φ) := by
      have h1 : (j + 1 + 2 : ℝ) * φ = (j + 2) * φ + φ := by ring
      have h2 : (j + 1 : ℝ) * φ = (j + 2) * φ - φ := by ring
      rw [h1, h2, Real.sin_add, Real.sin_sub]; ring
    rw [e, sub_mul, mul_assoc (2 * (y : ℝ)), ih.2, mul_assoc ((4 : ℝ) ^ k), ih.1, h, h4]
    ring

theorem first_multiple (φ : ℝ) (h0 : 0 < φ) (h1 : φ ≤ Real.pi / 2) (n : ℕ) (hn : 0 < n) :
    (∃ j < n, Real.sin ((j + 1) * φ) ≤ 0) ↔ Real.pi / n ≤ φ := by
  have hn' : (0 : ℝ) < n := by exact_mod_cast hn
  rw [div_le_iff₀ hn']
  constructor
  · rintro ⟨j, hj, hs⟩
    by_contra hc
    push Not at hc
    have hj' : (j : ℝ) + 1 ≤ n := by exact_mod_cast hj
    have : 0 < Real.sin ((j + 1) * φ) := Real.sin_pos_of_pos_of_lt_pi (by positivity) (by nlinarith)
    linarith
  · intro hle
    let m := ⌈Real.pi / φ⌉₊
    have hm1 : Real.pi / φ ≤ m := Nat.le_ceil _
    have hm2 : (m : ℝ) < Real.pi / φ + 1 := Nat.ceil_lt_add_one (by positivity)
    have hmn : m ≤ n := Nat.ceil_le.2 (by rw [div_le_iff₀ h0]; linarith)
    have hm0 : 0 < m := Nat.ceil_pos.2 (by positivity)
    have a1 : Real.pi ≤ m * φ := by rwa [div_le_iff₀ h0] at hm1
    have a2 : m * φ < Real.pi + φ := by
      have := mul_lt_mul_of_pos_right hm2 h0
      rwa [add_mul, div_mul_cancel₀ _ h0.ne', one_mul] at this
    refine ⟨m - 1, by omega, ?_⟩
    have : ((m - 1 : ℕ) : ℝ) + 1 = m := by
      rw [Nat.cast_sub hm0]; simp
    rw [this]
    have hs := Real.sin_nonneg_of_nonneg_of_le_pi (x := m * φ - Real.pi) (by linarith) (by linarith [Real.pi_pos])
    rw [Real.sin_sub_pi] at hs
    linarith

theorem atMostCosine_iff (n k y : ℕ) (hn : 0 < n) (hy : y < 2 ^ k) :
    atMostCosine n k y = true ↔ (y : ℝ) / 2 ^ k ≤ Real.cos (Real.pi / n) := by
  have hp : (0 : ℝ) < 2 ^ k := by positivity
  set x : ℝ := (y : ℝ) / 2 ^ k with hx
  have hx0 : 0 ≤ x := by positivity
  have hx1 : x < 1 := by rw [hx, div_lt_one hp]; exact_mod_cast hy
  set φ := Real.arccos x with hφ
  have hc : Real.cos φ = x := Real.cos_arccos (by linarith) hx1.le
  have h0 : 0 < φ := Real.arccos_pos.2 hx1
  have h1 : φ ≤ Real.pi / 2 := Real.arccos_le_pi_div_two.2 hx0
  have hs : 0 < Real.sin φ := Real.sin_pos_of_pos_of_lt_pi h0 (by linarith [Real.pi_pos])
  have hyc : ((y : ℤ) : ℝ) = 2 ^ k * Real.cos φ := by rw [hc, hx]; field_simp; simp
  have e : atMostCosine n k y = true ↔ ∃ j < n, uSeq y (4 ^ k) (0 + j) ≤ 0 := someNonpositive_iff _ _ n 0
  rw [e]
  have e2 : ∀ j : ℕ, uSeq y (4 ^ k) (0 + j) ≤ 0 ↔ Real.sin ((j + 1) * φ) ≤ 0 := by
    intro j
    have h := (uSeq_sin y k φ hyc j).1
    rw [Nat.zero_add]
    have hpk : (0 : ℝ) < 2 ^ (k * j) := by positivity
    rw [show uSeq (y : ℤ) (4 ^ k) j ≤ 0 ↔ ((uSeq (y : ℤ) (4 ^ k) j : ℤ) : ℝ) ≤ 0 by exact_mod_cast Iff.rfl]
    constructor
    · intro hu
      by_contra hc
      push Not at hc
      nlinarith [mul_pos hpk hc]
    · intro hu
      by_contra hc
      push Not at hc
      nlinarith [mul_pos hc hs]
  simp only [e2]
  rw [first_multiple φ h0 h1 n hn, ← hc]
  have hn1 : Real.pi / n ∈ Set.Icc 0 Real.pi :=
    ⟨by positivity, div_le_self Real.pi_pos.le (by exact_mod_cast hn)⟩
  exact (Real.strictAntiOn_cos.le_iff_ge ⟨h0.le, by linarith [Real.pi_pos]⟩ hn1).symm

/-- The digits are those of `cos(pi/n)`. -/
theorem cosineDigits_bounds (n : ℕ) (hn : 2 ≤ n) (k : ℕ) :
    (cosineDigits n k : ℝ) / 2 ^ k ≤ Real.cos (Real.pi / n)
      ∧ Real.cos (Real.pi / n) < (cosineDigits n k + 1) / 2 ^ k ∧ cosineDigits n k < 2 ^ k := by
  have hn' : (2 : ℝ) ≤ n := by exact_mod_cast hn
  have hle : Real.pi / n ≤ Real.pi / 2 := div_le_div_of_nonneg_left Real.pi_pos.le (by norm_num) hn'
  have hpos : 0 < Real.pi / n := by positivity
  have c0 : 0 ≤ Real.cos (Real.pi / n) := Real.cos_nonneg_of_mem_Icc ⟨by linarith, hle⟩
  have c1 : Real.cos (Real.pi / n) < 1 := by
    rw [← Real.cos_zero]
    exact Real.cos_lt_cos_of_nonneg_of_le_pi (le_refl _) (by linarith [Real.pi_pos]) hpos
  induction k with
  | zero => simp [cosineDigits, c0, c1]
  | succ k ih =>
    obtain ⟨h1, h2, h3⟩ := ih
    have hp : (0 : ℝ) < 2 ^ k := by positivity
    rw [div_le_iff₀ hp] at h1
    rw [lt_div_iff₀ hp] at h2
    have hlt : 2 * cosineDigits n k + 1 < 2 ^ (k + 1) := by rw [pow_succ]; omega
    have ht := atMostCosine_iff n (k + 1) (2 * cosineDigits n k + 1) (by omega) hlt
    have hp2 : (0 : ℝ) < 2 ^ (k + 1) := by positivity
    have h2k : (2 : ℝ) ^ (k + 1) = 2 * 2 ^ k := by rw [pow_succ]; ring
    rw [div_le_iff₀ hp2] at ht
    rw [div_le_iff₀ hp2, lt_div_iff₀ hp2]
    unfold cosineDigits
    split_ifs with hb
    · have := ht.1 hb
      refine ⟨this, ?_, hlt⟩
      push_cast; rw [h2k]; linarith
    · have : ¬ _ := fun h => hb (ht.2 h)
      push Not at this
      refine ⟨by push_cast; rw [h2k]; linarith, ?_, by omega⟩
      push_cast at this ⊢; linarith

theorem chebyshev_cos (y : Int) (k : ℕ) (φ : ℝ) (h : (y : ℝ) = 2 ^ k * Real.cos φ) (j : ℕ) :
    ((chebyshev y (4 ^ k) j).1 : ℝ) = 2 ^ (k * j) * Real.cos (j * φ) ∧
    ((chebyshev y (4 ^ k) j).2 : ℝ) = 2 ^ (k * (j + 1)) * Real.cos ((j + 1) * φ) := by
  induction j with
  | zero => simp [chebyshev, h]
  | succ j ih =>
    refine ⟨by simp only [chebyshev]; rw [ih.2]; push_cast; rfl, ?_⟩
    simp only [chebyshev]
    push_cast
    have h4 : (4 : ℝ) ^ k = 2 ^ k * 2 ^ k := by rw [← mul_pow]; norm_num
    have e : Real.cos ((j + 1 + 1) * φ) = 2 * Real.cos φ * Real.cos ((j + 1) * φ) - Real.cos (j * φ) := by
      have h1 : (j + 1 + 1 : ℝ) * φ = (j + 1) * φ + φ := by ring
      have h2 : (j : ℝ) * φ = (j + 1) * φ - φ := by ring
      rw [h1, h2, Real.cos_add, Real.cos_sub]; ring
    rw [e, ih.1, ih.2, h, h4]
    ring

theorem abs_sin_nat_mul (j : ℕ) (α : ℝ) : |Real.sin (j * α)| ≤ j * |Real.sin α| := by
  induction j with
  | zero => simp
  | succ j ih =>
    push_cast
    rw [add_mul, one_mul, Real.sin_add]
    calc _ ≤ |Real.sin (j * α) * Real.cos α| + |Real.cos (j * α) * Real.sin α| := abs_add_le _ _
      _ ≤ |Real.sin (j * α)| * 1 + 1 * |Real.sin α| := by
        rw [abs_mul, abs_mul]
        gcongr
        · exact Real.abs_cos_le_one _
        · exact Real.abs_cos_le_one _
      _ ≤ _ := by linarith

theorem abs_cos_nat_mul_sub (j : ℕ) (θ φ : ℝ) :
    |Real.cos (j * θ) - Real.cos (j * φ)| ≤ j ^ 2 * |Real.cos θ - Real.cos φ| := by
  rw [Real.cos_sub_cos, Real.cos_sub_cos]
  have e1 : (j * θ + j * φ) / 2 = j * ((θ + φ) / 2) := by ring
  have e2 : (j * θ - j * φ) / 2 = j * ((θ - φ) / 2) := by ring
  rw [e1, e2, abs_mul, abs_mul, abs_mul, abs_mul]
  have h1 := abs_sin_nat_mul j ((θ + φ) / 2)
  have h2 := abs_sin_nat_mul j ((θ - φ) / 2)
  calc _ ≤ |(-2 : ℝ)| * (j * |Real.sin ((θ + φ) / 2)|) * (j * |Real.sin ((θ - φ) / 2)|) := by gcongr
    _ = _ := by ring

theorem approxCosine_error (n k : ℕ) (t : Rat) (hn : 2 ≤ n) (hd : t.den ∣ n) :
    |((approxCosine n k t : Rat) : ℝ) - Real.cos (2 * Real.pi * t)| ≤ (2 * n) ^ 2 / 2 ^ k := by
  obtain ⟨h1, h2, h3⟩ := cosineDigits_bounds n hn k
  have hp : (0 : ℝ) < 2 ^ k := by positivity
  set y := cosineDigits n k
  have hx0 : (0 : ℝ) ≤ (y : ℝ) / 2 ^ k := by positivity
  have hx1 : (y : ℝ) / 2 ^ k ≤ 1 := by rw [div_le_one hp]; exact_mod_cast h3.le
  set φ := Real.arccos ((y : ℝ) / 2 ^ k)
  have hc : Real.cos φ = (y : ℝ) / 2 ^ k := Real.cos_arccos (by linarith) hx1
  have hyc : ((y : ℤ) : ℝ) = 2 ^ k * Real.cos φ := by rw [hc]; field_simp; simp
  have hn0 : n ≠ 0 := by omega
  have hval : ((approxCosine n k t : Rat) : ℝ) = Real.cos ((2 * turnIndex n t : ℕ) * φ) := by
    rw [approxCosine, Rat.mkRat_eq_div]
    push_cast
    rw [(chebyshev_cos y k φ hyc _).1]
    have : (2 : ℝ) ^ (k * (2 * turnIndex n t)) ≠ 0 := by positivity
    rw [mul_div_cancel_left₀ _ this]
    push_cast; rfl
  have hcos : Real.cos (2 * Real.pi * t) = Real.cos ((2 * turnIndex n t : ℕ) * (Real.pi / n)) := by
    rw [← cos_turnIndex hn0 hd]; congr 1; push_cast; ring
  rw [hval, hcos]
  refine (abs_cos_nat_mul_sub _ _ _).trans ?_
  rw [div_eq_mul_inv]
  have hb : |Real.cos φ - Real.cos (Real.pi / n)| ≤ (2 ^ k)⁻¹ := by
    rw [hc, abs_le]
    rw [add_div, one_div] at h2
    constructor <;> linarith [inv_pos.2 hp]
  have hj : ((2 * turnIndex n t : ℕ) : ℝ) ≤ 2 * n := by
    have := turnIndex_lt hn0 t
    push_cast
    have : (turnIndex n t : ℝ) ≤ n := by exact_mod_cast this.le
    linarith
  exact mul_le_mul (pow_le_pow_left₀ (by positivity) hj 2) hb (abs_nonneg _) (by positivity)

theorem den_dvd_commonOrder {t : CosTerm} {l : List CosTerm} (h : t ∈ l) : t.turn.den ∣ commonOrder l := by
  induction l with
  | nil => cases h
  | cons c l ih =>
    rcases List.mem_cons.1 h with rfl | h
    · exact Nat.dvd_lcm_left _ _
    · exact (ih h).trans (Nat.dvd_lcm_right _ _)

theorem two_dvd_commonOrder (l : List CosTerm) : 2 ∣ commonOrder l := by
  induction l with
  | nil => exact dvd_rfl
  | cons c l ih => exact ih.trans (Nat.dvd_lcm_right _ _)

theorem commonOrder_ne_zero (l : List CosTerm) : commonOrder l ≠ 0 := by
  induction l with
  | nil => decide
  | cons c l ih => exact Nat.lcm_ne_zero c.turn.den_ne_zero ih

theorem two_le_commonOrder (l : List CosTerm) : 2 ≤ commonOrder l :=
  Nat.le_of_dvd (Nat.pos_of_ne_zero (commonOrder_ne_zero l)) (two_dvd_commonOrder l)

/-- `commonDen`, as a function of the two parts. -/
def denOf (q : Rat) (l : List CosTerm) : Nat := l.foldr (fun t d => Nat.lcm t.factor.den d) q.den

theorem dens_dvd (q : Rat) (l : List CosTerm) :
    denOf q l ≠ 0 ∧ q.den ∣ denOf q l ∧ ∀ t ∈ l, t.factor.den ∣ denOf q l := by
  induction l with
  | nil => exact ⟨q.den_ne_zero, dvd_rfl, by simp⟩
  | cons c l ih =>
    refine ⟨Nat.lcm_ne_zero c.factor.den_ne_zero ih.1, ih.2.1.trans (Nat.dvd_lcm_right _ _), ?_⟩
    intro t h
    rcases List.mem_cons.1 h with rfl | h
    · exact Nat.dvd_lcm_left _ _
    · exact (ih.2.2 t h).trans (Nat.dvd_lcm_right _ _)

theorem cleared_eq (d : Nat) (q : Rat) (h : q.den ∣ d) : ((cleared d q : ℤ) : ℝ) = d * q := by
  obtain ⟨c, rfl⟩ := h
  unfold cleared
  rw [Nat.mul_div_cancel_left _ q.den_pos]
  have : (q.den : ℝ) ≠ 0 := by simp
  rw [Rat.cast_def q]
  push_cast
  field_simp

/-- The sum of the factors' sizes. -/
noncomputable def absSum (l : List CosTerm) : ℝ := (l.map fun t => |(t.factor : ℝ)|).sum

theorem conjugateBound_eq (x : CosSum) :
    (conjugateBound x : ℝ) = 2 * commonDen x * (|(x.rational : ℝ)| + absSum x.cosines) := by
  have hd := dens_dvd x.rational x.cosines
  have hD : denOf x.rational x.cosines = commonDen x := rfl
  rw [hD] at hd
  unfold conjugateBound
  generalize hDD : commonDen x = D at hd ⊢
  have aux : ∀ l : List CosTerm, (∀ t ∈ l, t.factor.den ∣ D) → ∀ s : ℕ,
      ((l.foldr (fun t s => (cleared D t.factor).natAbs + s) s : ℕ) : ℝ) = D * absSum l + s := by
    intro l hl s
    induction l with
    | nil => simp [absSum]
    | cons c l ih =>
      rw [List.foldr_cons]
      push_cast
      rw [ih fun t ht => hl t (List.mem_cons_of_mem _ ht)]
      have := cleared_eq D c.factor (hl c List.mem_cons_self)
      rw [Nat.cast_natAbs, Int.cast_abs, this, abs_mul, Nat.abs_cast]
      simp [absSum]; ring
  push_cast
  rw [aux _ hd.2.2]
  rw [Nat.cast_natAbs, Int.cast_abs, cleared_eq D _ hd.2.1, abs_mul, Nat.abs_cast]
  ring

/-- The polynomial whose value at a root of unity is twice a common denominator times the cosines' sum. -/
noncomputable def termPoly (n d : Nat) (l : List CosTerm) : ℤ[X] :=
  (l.map fun t => C (cleared d t.factor) *
    (X ^ turnIndex n t.turn
      + X ^ (n - turnIndex n t.turn))).sum

theorem norm_termPoly (n d : Nat) (l : List CosTerm) (hl : ∀ t ∈ l, t.factor.den ∣ d) (μ : ℂ) (hμ : ‖μ‖ = 1) :
    ‖aeval μ (termPoly n d l)‖ ≤ 2 * d * absSum l := by
  induction l with
  | nil => simp [termPoly, absSum]
  | cons c l ih =>
    have e : termPoly n d (c :: l) = C (cleared d c.factor) *
      (X ^ turnIndex n c.turn
      + X ^ (n - turnIndex n c.turn)) + termPoly n d l := by
      simp [termPoly]
    have e2 : absSum (c :: l) = |(c.factor : ℝ)| + absSum l := by simp [absSum]
    rw [e, e2, map_add]
    refine (norm_add_le _ _).trans ?_
    have h1 := ih fun t ht => hl t (List.mem_cons_of_mem _ ht)
    have h2 : ‖aeval μ (C (cleared d c.factor) *
      (X ^ turnIndex n c.turn
      + X ^ (n - turnIndex n c.turn)))‖ ≤ d * |(c.factor : ℝ)| * 2 := by
      simp only [map_mul, map_add, map_pow, aeval_X, aeval_C, norm_mul]
      have : ‖(algebraMap ℤ ℂ) (cleared d c.factor)‖ = d * |(c.factor : ℝ)| := by
        simp only [algebraMap_int_eq, eq_intCast, Complex.norm_intCast]
        rw [cleared_eq d _ (hl c List.mem_cons_self), abs_mul, Nat.abs_cast]
      rw [this]
      gcongr
      refine (norm_add_le _ _).trans ?_
      simp [norm_pow, hμ]; norm_num
    linarith

theorem exp_pair (n : ℕ) (t : Rat) (hn : n ≠ 0) (hd : t.den ∣ n) :
    Complex.exp (2 * Real.pi * Complex.I / n) ^ turnIndex n t
      + Complex.exp (2 * Real.pi * Complex.I / n) ^ (n - turnIndex n t)
      = ((2 * Real.cos (2 * Real.pi * t) : ℝ) : ℂ) := by
  have hlt := turnIndex_lt hn t
  have hnC : (n : ℂ) ≠ 0 := by exact_mod_cast hn
  rw [← cos_turnIndex hn hd]
  have h1 : Complex.exp (2 * Real.pi * Complex.I / n) ^ n = 1 := by
    rw [← Complex.exp_nat_mul, mul_div_cancel₀ _ hnC, Complex.exp_two_pi_mul_I]
  have h2 : Complex.exp (2 * Real.pi * Complex.I / n) ^ (n - turnIndex n t)
      = (Complex.exp (2 * Real.pi * Complex.I / n) ^ turnIndex n t)⁻¹ := by
    apply eq_inv_of_mul_eq_one_left
    rw [← pow_add, Nat.sub_add_cancel hlt.le, h1]
  rw [h2, ← Complex.exp_nat_mul, ← Complex.exp_neg]
  push_cast
  rw [Complex.two_cos]
  have e1 : (turnIndex n t : ℂ) * (2 * Real.pi * Complex.I / n)
      = 2 * Real.pi * (turnIndex n t / n) * Complex.I := by ring
  rw [e1]; ring_nf

theorem aeval_termPoly (n d : Nat) (hn : n ≠ 0) (l : List CosTerm) (hl : ∀ t ∈ l, t.factor.den ∣ d)
    (ht : ∀ t ∈ l, t.turn.den ∣ n) :
    aeval (Complex.exp (2 * Real.pi * Complex.I / n)) (termPoly n d l) = ((2 * d * termSum l : ℝ) : ℂ) := by
  induction l with
  | nil => simp [termPoly]
  | cons c l ih =>
    have e : termPoly n d (c :: l) = C (cleared d c.factor) *
      (X ^ turnIndex n c.turn
      + X ^ (n - turnIndex n c.turn)) + termPoly n d l := by
      simp [termPoly]
    rw [e, map_add, ih (fun t h => hl t (List.mem_cons_of_mem _ h)) fun t h => ht t (List.mem_cons_of_mem _ h)]
    simp only [map_mul, map_add, map_pow, aeval_X, aeval_C]
    rw [exp_pair n c.turn hn (ht c List.mem_cons_self), termSum_cons]
    have h3 : (algebraMap ℤ ℂ) (cleared d c.factor) = ((d * c.factor : ℝ) : ℂ) := by
      rw [← cleared_eq d _ (hl c List.mem_cons_self)]; simp
    rw [h3]; push_cast; ring

/-- A number of the field that is not zero is at least this far from zero. -/
theorem toReal_gap (x : CosSum) (h : x.toReal ≠ 0) :
    1 ≤ 2 * commonDen x * |x.toReal| * (conjugateBound x : ℝ) ^ commonOrder x.cosines := by
  have hd := dens_dvd x.rational x.cosines
  have hD : denOf x.rational x.cosines = commonDen x := rfl
  rw [hD] at hd
  set n := commonOrder x.cosines with hn
  have hn0 : n ≠ 0 := commonOrder_ne_zero _
  set D := commonDen x
  set P : ℤ[X] := C (2 * cleared D x.rational) + termPoly n D x.cosines with hP
  have hD0 : (0 : ℝ) < D := by exact_mod_cast Nat.pos_of_ne_zero hd.1
  have hval : aeval (Complex.exp (2 * Real.pi * Complex.I / n)) P = ((2 * D * x.toReal : ℝ) : ℂ) := by
    rw [hP, map_add, aeval_termPoly n D hn0 _ hd.2.2 fun t ht => den_dvd_commonOrder ht, aeval_C, toReal_eq]
    have : (algebraMap ℤ ℂ) (2 * cleared D x.rational) = ((2 * (D * x.rational) : ℝ) : ℂ) := by
      rw [← cleared_eq D _ hd.2.1]; simp
    rw [this]; push_cast; ring
  have hbound : ∀ μ : ℂ, ‖μ‖ = 1 → ‖aeval μ P‖ ≤ conjugateBound x := by
    intro μ hμ
    rw [conjugateBound_eq, hP, map_add]
    refine (norm_add_le _ _).trans ?_
    have h1 := norm_termPoly n D x.cosines hd.2.2 μ hμ
    have h2 : ‖aeval μ (C (2 * cleared D x.rational))‖ = 2 * (D * |(x.rational : ℝ)|) := by
      rw [aeval_C]
      simp only [algebraMap_int_eq, eq_intCast, Complex.norm_intCast]
      push_cast
      rw [cleared_eq D _ hd.2.1, abs_mul, abs_mul, Nat.abs_cast]; norm_num
    rw [h2]; linarith
  have hz : ((2 * D * x.toReal : ℝ) : ℂ) ≠ 0 := by
    simp only [ne_eq, Complex.ofReal_eq_zero, mul_eq_zero]
    push Not
    exact ⟨⟨by norm_num, hD0.ne'⟩, h⟩
  have hS : (1 : ℝ) ≤ conjugateBound x := by
    have hlt : (0 : ℝ) < conjugateBound x := by
      have := hbound _ (Complex.norm_exp_ofReal_mul_I (2 * Real.pi / n))
      have e : Complex.exp (((2 * Real.pi / n : ℝ) : ℂ) * Complex.I) = Complex.exp (2 * Real.pi * Complex.I / n) := by
        push_cast; ring_nf
      rw [e, hval] at this
      exact (norm_pos_iff.2 hz).trans_le this
    exact_mod_cast hlt
  have hg := cyclotomic_gap n hn0 P _ hS hbound _ (Complex.isPrimitiveRoot_exp n hn0) (by rw [hval]; exact hz)
  rw [hval, Complex.norm_real, Real.norm_eq_abs, abs_mul, abs_mul, Nat.abs_cast] at hg
  simpa using hg

theorem approxTo_error (k : Nat) (x : CosSum) :
    |((approxTo k x : Rat) : ℝ) - x.toReal| ≤ absSum x.cosines * ((2 * commonOrder x.cosines) ^ 2 / 2 ^ k) := by
  have hn := two_le_commonOrder x.cosines
  have hd : ∀ t ∈ x.cosines, t.turn.den ∣ commonOrder x.cosines := fun t ht => den_dvd_commonOrder ht
  rw [toReal_eq]
  unfold approxTo
  generalize commonOrder x.cosines = n at hn hd ⊢
  generalize x.cosines = l at hd ⊢
  induction l with
  | nil => simp [absSum]
  | cons c l ih =>
    have h1 := ih fun t ht => hd t (List.mem_cons_of_mem _ ht)
    have h2 := approxCosine_error n k c.turn hn (hd c List.mem_cons_self)
    have e2 : absSum (c :: l) = |(c.factor : ℝ)| + absSum l := by simp [absSum]
    simp only [List.foldr_cons, ratAdd_eq, ratMul_eq, termSum_cons, e2] at h1 ⊢
    push_cast
    generalize ((l.foldr (fun t q => t.factor * approxCosine n k t.turn + q) x.rational : ℚ) : ℝ) = A at h1 ⊢
    have : (c.factor : ℝ) * (approxCosine n k c.turn : ℝ) + A
        - (x.rational + (c.factor * Real.cos (2 * Real.pi * c.turn) + termSum l))
        = c.factor * ((approxCosine n k c.turn : ℝ) - Real.cos (2 * Real.pi * c.turn))
          + (A - (x.rational + termSum l)) := by ring
    rw [this, add_mul]
    refine (abs_add_le _ _).trans (add_le_add ?_ h1)
    rw [abs_mul]
    exact mul_le_mul_of_nonneg_left h2 (abs_nonneg _)

theorem approx_error (x : CosSum) :
    |((approx x : Rat) : ℝ) - x.toReal|
      ≤ absSum x.cosines * ((2 * commonOrder x.cosines) ^ 2 / 2 ^ precision x) :=
  approxTo_error (precision x) x

/-- The computed value is close enough to decide the sign. -/
theorem approx_close (x : CosSum) (hS : 0 < conjugateBound x) :
    4 * commonDen x * (conjugateBound x : ℝ) ^ commonOrder x.cosines * |((approx x : Rat) : ℝ) - x.toReal| < 1 := by
  have hd := dens_dvd x.rational x.cosines
  have hD0 : (0 : ℝ) < commonDen x := by exact_mod_cast Nat.pos_of_ne_zero hd.1
  have herr := approx_error x
  have hlog : 8 * commonOrder x.cosines ^ 2 * conjugateBound x ^ (commonOrder x.cosines + 1) < 2 ^ precision x :=
    Nat.lt_log2_self
  have hlogR : 8 * (commonOrder x.cosines : ℝ) ^ 2 * (conjugateBound x : ℝ) ^ (commonOrder x.cosines + 1)
      < 2 ^ precision x := by exact_mod_cast hlog
  have hA : 2 * commonDen x * absSum x.cosines ≤ conjugateBound x := by
    rw [conjugateBound_eq]; nlinarith [abs_nonneg (x.rational : ℝ)]
  have hS' : (0 : ℝ) < conjugateBound x := by exact_mod_cast hS
  set n := commonOrder x.cosines
  set S := (conjugateBound x : ℝ)
  have hp : (0 : ℝ) < 2 ^ precision x := by positivity
  calc _ ≤ 4 * commonDen x * S ^ n * (absSum x.cosines * ((2 * n) ^ 2 / 2 ^ precision x)) := by gcongr
    _ = (2 * commonDen x * absSum x.cosines) * (8 * n ^ 2 * S ^ n / 2 ^ precision x) := by ring
    _ ≤ S * (8 * n ^ 2 * S ^ n / 2 ^ precision x) := by gcongr
    _ = 8 * n ^ 2 * S ^ (n + 1) / 2 ^ precision x := by rw [pow_succ]; ring
    _ < 1 := by rw [div_lt_one hp]; exact hlogR

theorem nonneg_iff (x : CosSum) : nonneg x = true ↔ 0 ≤ x.toReal := by
  have hgen : ratLe (mkRat (-1) (4 * commonDen x * conjugateBound x ^ commonOrder x.cosines)) (approx x) = true
      ↔ 0 ≤ x.toReal := by
    have hd := dens_dvd x.rational x.cosines
    have hD0 : (0 : ℝ) < commonDen x := by exact_mod_cast Nat.pos_of_ne_zero hd.1
    rw [ratLe_eq, decide_eq_true_eq, Rat.mkRat_eq_div]
    rw [← Rat.cast_le (K := ℝ)]
    push_cast
    rcases Nat.eq_zero_or_pos (conjugateBound x) with h0 | hS
    · have hb := conjugateBound_eq x
      rw [h0] at hb
      have hA : 0 ≤ absSum x.cosines := List.sum_nonneg (by simp)
      have hz : |(x.rational : ℝ)| + absSum x.cosines = 0 := by
        rw [Nat.cast_zero] at hb
        rcases mul_eq_zero.1 hb.symm with h | h
        · linarith
        · exact h
      have hA0 : absSum x.cosines = 0 := by linarith [abs_nonneg (x.rational : ℝ)]
      have hr0 : (x.rational : ℝ) = 0 := abs_eq_zero.1 (by linarith)
      have hx : x.toReal = 0 := by
        by_contra hne
        have := toReal_gap x hne
        rw [h0] at this
        simp [commonOrder_ne_zero] at this
        linarith
      have he := approx_error x
      rw [hA0, zero_mul, hx, sub_zero] at he
      rw [abs_nonpos_iff.1 he, hx, h0]
      simp [commonOrder_ne_zero]
    · have hS' : (0 : ℝ) < conjugateBound x := by exact_mod_cast hS
      have hc := approx_close x hS
      set B : ℝ := 4 * commonDen x * (conjugateBound x : ℝ) ^ commonOrder x.cosines with hB
      have hB0 : 0 < B := by positivity
      rw [div_le_iff₀ hB0]
      have hgap : x.toReal ≠ 0 → 2 ≤ B * |x.toReal| := fun h => by
        have := toReal_gap x h
        rw [hB]; nlinarith
      have hc' : |B * (approx x : ℝ) - B * x.toReal| < 1 := by
        rwa [← mul_sub, abs_mul, abs_of_pos hB0]
      rw [abs_lt] at hc'
      constructor
      · intro h
        by_contra hneg
        push Not at hneg
        have := hgap hneg.ne
        rw [abs_of_neg hneg] at this
        nlinarith
      · intro h
        have : 0 ≤ B * x.toReal := by positivity
        nlinarith
  unfold nonneg
  split
  · next h =>
    rw [toReal_eq, h, termSum_nil, add_zero, decide_eq_true_eq, Rat.cast_nonneg, Rat.num_nonneg]
  · exact hgen

/-- The order is decided right, whatever the turns. -/
theorem cosLe_iff (x y : CosSum) : cosLe x y = true ↔ x.toReal ≤ y.toReal := by
  rw [cosLe, nonneg_iff, toReal_cosSub, sub_nonneg]

theorem cleared_rational_integral (x : CosSum) (q : Rat) (h : x.toReal = q) :
    ∃ m : ℤ, (2 * commonDen x : Rat) * q = m := by
  have hd := dens_dvd x.rational x.cosines
  have hD : denOf x.rational x.cosines = commonDen x := rfl
  rw [hD] at hd
  set n := commonOrder x.cosines with hn
  have hn0 : n ≠ 0 := commonOrder_ne_zero _
  set D := commonDen x
  have hval : aeval (Complex.exp (2 * Real.pi * Complex.I / n))
      (C (2 * cleared D x.rational) + termPoly n D x.cosines) = ((2 * D * x.toReal : ℝ) : ℂ) := by
    rw [map_add, aeval_termPoly n D hn0 _ hd.2.2 fun t ht => den_dvd_commonOrder ht, aeval_C, toReal_eq]
    have : (algebraMap ℤ ℂ) (2 * cleared D x.rational) = ((2 * (D * x.rational) : ℝ) : ℂ) := by
      rw [← cleared_eq D _ hd.2.1]; simp
    rw [this]; push_cast; ring
  have hint : IsIntegral ℤ ((algebraMap ℚ ℂ) (2 * D * q)) := by
    have : (algebraMap ℚ ℂ) (2 * D * q) = aeval (Complex.exp (2 * Real.pi * Complex.I / n))
      (C (2 * cleared D x.rational) + termPoly n D x.cosines) := by
      rw [hval, h]; simp
    rw [this]
    exact IsIntegral.of_mem_of_fg _ ((Complex.isPrimitiveRoot_exp n hn0).isIntegral
      (Nat.pos_of_ne_zero hn0)).fg_adjoin_singleton _ (Polynomial.aeval_mem_adjoin_singleton _ _)
  rw [isIntegral_algebraMap_iff (algebraMap ℚ ℂ).injective] at hint
  obtain ⟨m, hm⟩ := IsIntegrallyClosed.isIntegral_iff.1 hint
  exact ⟨m, by rw [← hm]; simp⟩

theorem nearestInt_eq {a : Rat} {m : ℤ} (h : |a - m| < 1 / 2) : nearestInt a = m := by
  have hd : (a.den : ℚ) ≠ 0 := by simp
  have e : nearestInt a = ⌊a + 1 / 2⌋ := by
    rw [nearestInt, ← Rat.floor_intCast_div_natCast]
    congr 1
    conv_rhs => rw [← Rat.num_div_den a]
    push_cast
    field_simp
  rw [e, Int.floor_eq_iff]
  rw [abs_lt] at h
  constructor <;> linarith

/-- A number is found rational exactly when it is (R121). -/
theorem cosRational_eq (x : CosSum) (q : Rat) : cosRational x = some q ↔ x.toReal = q := by
  have hd := dens_dvd x.rational x.cosines
  have hD : denOf x.rational x.cosines = commonDen x := rfl
  rw [hD] at hd
  unfold cosRational
  split
  · next h =>
    rw [toReal_eq, h, termSum_nil, add_zero]
    simp
  · have hD0 : (0 : ℝ) < commonDen x := by exact_mod_cast Nat.pos_of_ne_zero hd.1
    have hle : ∀ p : Rat, (cosLe x (CosSum.ofRat p) && cosLe (CosSum.ofRat p) x) = true ↔ x.toReal = p := by
      intro p
      rw [Bool.and_eq_true, cosLe_iff, cosLe_iff, toReal_cosOfRat]
      exact le_antisymm_iff.symm
    simp only
    constructor
    · intro h
      split_ifs at h with hc
      cases h
      exact (hle _).1 hc
    · intro h
      obtain ⟨m, hm⟩ := cleared_rational_integral x q h
      have hclose : |ratMul (mkRat (2 * commonDen x) 1) (approx x) - m| < 1 / 2 := by
        rw [ratMul_eq, Rat.mkRat_eq_div, ← hm]
        have : |((approx x : Rat) : ℝ) - q| * (2 * commonDen x) < 1 / 2 := by
          rw [← h]
          rcases Nat.eq_zero_or_pos (conjugateBound x) with h0 | hS
          · have hb := conjugateBound_eq x
            have he := approx_error x
            have hA : 0 ≤ absSum x.cosines := List.sum_nonneg (by simp)
            have hA0 : absSum x.cosines = 0 := by
              rw [h0, Nat.cast_zero] at hb
              rcases mul_eq_zero.1 hb.symm with h | h
              · linarith
              · linarith [abs_nonneg (x.rational : ℝ)]
            rw [hA0, zero_mul] at he
            have := abs_nonneg (((approx x : Rat) : ℝ) - x.toReal)
            have h0 : |((approx x : Rat) : ℝ) - x.toReal| = 0 := le_antisymm he this
            rw [h0]; norm_num
          · have hc := approx_close x hS
            have hS1 : (1 : ℝ) ≤ (conjugateBound x : ℝ) ^ commonOrder x.cosines :=
              one_le_pow₀ (by exact_mod_cast hS)
            have hn := abs_nonneg (((approx x : Rat) : ℝ) - x.toReal)
            nlinarith [mul_nonneg hD0.le hn]
        have e : ((2 * (commonDen x : ℤ) : ℤ) : ℚ) / ((1 : ℕ) : ℚ) * approx x - 2 * commonDen x * q
            = (approx x - q) * (2 * commonDen x) := by push_cast; ring
        rw [e, abs_mul, abs_of_nonneg (by positivity : (0 : ℚ) ≤ 2 * commonDen x)]
        rw [← Rat.cast_lt (K := ℝ)]
        push_cast
        exact this
      have hq : mkRat (nearestInt (ratMul (mkRat (2 * commonDen x) 1) (approx x))) (2 * commonDen x) = q := by
        rw [nearestInt_eq hclose, Rat.mkRat_eq_div, ← hm]
        have : (commonDen x : ℚ) ≠ 0 := by exact_mod_cast hd.1
        push_cast
        field_simp
      rw [hq, if_pos ((hle q).2 h)]

/-- The doubled cosine of a turn. -/
theorem toReal_twiceCosine (t : Rat) : (twiceCosine t).toReal = 2 * Real.cos (2 * Real.pi * t) := by
  rw [twiceCosine, toReal_addCosine, toReal_cosOfRat]
  simp

/-- A product with zero is zero, as data (R127). -/
theorem cosMul_zero (a : CosSum) : cosMul a (.ofRat 0) = .ofRat 0 := by
  obtain ⟨q, l⟩ := a
  have key : ∀ l : List CosTerm, addTerms (scaleTerms 0 l) (.ofRat 0) = .ofRat 0 := by
    intro l
    induction l with
    | nil => rfl
    | cons t l ih =>
      have h : addTerms (scaleTerms 0 (t :: l)) (.ofRat 0)
          = addCosine t.turn 0 (addTerms (scaleTerms 0 l) (.ofRat 0)) := by
        simp [addTerms, scaleTerms, ratMul_eq]
      rw [h, ih]
      have hp : ∀ k n, placeCosine k n 0 (.ofRat 0) = .ofRat 0 := by
        intro k n
        unfold placeCosine
        split_ifs <;> simp [CosSum.ofRat, ratAdd_eq, ratMul_eq, insertCosine]
      unfold addCosine addFolded
      simp only [ratMul_eq, mul_zero]
      split_ifs <;> exact hp _ _
  have h : cosMul ⟨q, l⟩ (.ofRat 0) = addTerms (scaleTerms 0 l) (.ofRat 0) := by
    have e : (l.flatMap fun _ => ([] : List CosTerm)) = [] := by simp
    simp [cosMul, CosSum.ofRat, ratMul_eq, scaleTerms, e]
  rw [h, key]

/-! ### The reference instance -/

@[simp] theorem toReal_cosines (x : CosSum) : (RealNum.cosines x).toReal = x.toReal := rfl
@[simp] theorem toReal_sum (x y : RealNum) : (RealNum.sum x y).toReal = x.toReal + y.toReal := rfl
@[simp] theorem toReal_difference (x y : RealNum) : (RealNum.difference x y).toReal = x.toReal - y.toReal := rfl
@[simp] theorem toReal_product (x y : RealNum) : (RealNum.product x y).toReal = x.toReal * y.toReal := rfl
@[simp] theorem toReal_coefficient (fc : RealNum) (fs : Nat) :
    (RealNum.coefficient fc fs).toReal = 2 * Real.cos (2 * Real.pi * fc.toReal / fs) := rfl

theorem toReal_ofRat (q : Rat) : (RealNum.ofRat q).toReal = q := toReal_cosOfRat q

/-- Every real number has a whole part and binary digits: any may be the one that a constant stands for. -/
theorem exists_digits (r : ℝ) : ∃ (w : Int) (d : Nat → Fin 2), r = w + Real.ofDigits d :=
  ⟨⌊r⌋, Real.digits (Int.fract r) 2, by
    rw [Real.ofDigits_digits (by norm_num) ⟨Int.fract_nonneg r, Int.fract_lt_one r⟩, Int.floor_add_fract]⟩

/-- The exact sum is the sum. -/
theorem toReal_exactAdd (x y : RealNum) : (exactAdd x y).toReal = x.toReal + y.toReal := by
  unfold exactAdd
  split
  · exact toReal_cosAdd _ _
  · rfl

/-- The exact difference is the difference. -/
theorem toReal_exactSub (x y : RealNum) : (exactSub x y).toReal = x.toReal - y.toReal := by
  unfold exactSub
  split
  · exact toReal_cosSub _ _
  · rfl

/-- The exact product is the product. -/
theorem toReal_exactMul (x y : RealNum) : (exactMul x y).toReal = x.toReal * y.toReal := by
  unfold exactMul
  split
  · exact toReal_cosMul _ _
  · split_ifs with h
    · rcases h with rfl | rfl <;> simp [toReal_ofRat]
    · rfl

theorem exactMul_zero (a : RealNum) : exactMul a (.ofRat 0) = .ofRat 0 := by
  cases a with
  | cosines x => exact congrArg RealNum.cosines (cosMul_zero x)
  | _ => simp [exactMul, RealNum.ofRat]

/-- At every frequency the coefficient is twice the cosine (R121, R122, G1). -/
theorem toReal_exactCoeff (fc : RealNum) (fs : Nat) :
    (exactCoeff fc fs).toReal = 2 * Real.cos (2 * Real.pi * fc.toReal / fs) := by
  unfold exactCoeff
  split
  · next q h =>
    have hq : fc.toReal = q := by
      cases fc with
      | cosines x => exact (cosRational_eq x q).1 h
      | _ => cases h
    simp only [toReal_cosines, toReal_twiceCosine, Rat.mkRat_eq_div, hq]
    congr 2
    have : (q.den : ℝ) ≠ 0 := by simp
    rcases Nat.eq_zero_or_pos fs with rfl | hfs
    · simp
    · have : (fs : ℝ) ≠ 0 := by positivity
      push_cast
      conv_rhs => rw [Rat.cast_def q]
      field_simp
  · rfl

/-- A coefficient is at most 2 in size, whatever the frequency (R130). -/
theorem abs_exactCoeff_le (fc : RealNum) (fs : Nat) : |(exactCoeff fc fs).toReal| ≤ 2 := by
  rw [toReal_exactCoeff, abs_mul, abs_two]
  linarith [Real.abs_cos_le_one (2 * Real.pi * fc.toReal / fs)]

/-! ### The order of the reference instance -/

theorem constantDigits_eq (k n : Nat) : ((constantDigits k n : Rat) : ℝ)
    = Config.constantWhole k + ∑ i ∈ Finset.range n, Real.ofDigitsTerm (Config.constantDigit k) i := by
  induction n with
  | zero => simp [constantDigits]
  | succ n ih =>
    rw [Finset.sum_range_succ, constantDigits]
    push_cast
    rw [ih, Real.ofDigitsTerm]
    push_cast
    ring

theorem constantDigits_error (k n : Nat) :
    |((constantDigits k n : Rat) : ℝ) - (RealNum.constant k).toReal| ≤ 1 / 2 ^ n := by
  have h : (RealNum.constant k).toReal
    = Config.constantWhole k + Real.ofDigits (Config.constantDigit k) := rfl
  have hp : (0 : ℝ) < 2 ^ n := by positivity
  rw [h, Real.ofDigits_eq_sum_add_ofDigits _ n, constantDigits_eq]
  have h0 := Real.ofDigits_nonneg fun i => Config.constantDigit k (i + n)
  have h1 := Real.ofDigits_le_one fun i => Config.constantDigit k (i + n)
  rw [abs_sub_comm, show ∀ a b c : ℝ, a + (b + c) - (a + b) = c by intros; ring]
  push_cast
  rw [abs_of_nonneg (by positivity), one_div]
  exact mul_le_of_le_one_right (by positivity) h1

theorem foldr_absFactor (l : List CosTerm) :
    ((l.foldr (fun t s => |t.factor| + s) 0 : Rat) : ℝ) = absSum l := by
  induction l with
  | nil => simp [absSum]
  | cons c l ih =>
    rw [List.foldr_cons]
    push_cast
    rw [ih]
    simp [absSum]

theorem abs_cos_sub_cos_le (x y : ℝ) : |Real.cos x - Real.cos y| ≤ |x - y| := by
  rw [Real.cos_sub_cos, abs_mul, abs_mul]
  have h1 := Real.abs_sin_le_one ((x + y) / 2)
  have h2 : |Real.sin ((x - y) / 2)| ≤ |(x - y) / 2| := Real.abs_sin_le_abs
  rw [abs_div, abs_two] at h2
  rw [abs_neg, abs_two]
  nlinarith [abs_nonneg (Real.sin ((x - y) / 2)), abs_nonneg (Real.sin ((x + y) / 2)), abs_nonneg (x - y)]

/-- Every interval holds its number. -/
theorem enclose_error (x : RealNum) (n : Nat) :
    |((enclose x n).mid : ℝ) - x.toReal| ≤ (enclose x n).rad := by
  induction x with
  | cosines x =>
    have h := approxTo_error n x
    simp only [enclose]
    push_cast
    rw [foldr_absFactor]
    exact h
  | constant k =>
    simp only [enclose]
    push_cast
    exact constantDigits_error k n
  | sum x y hx hy =>
    simp only [enclose, toReal_sum]
    push_cast
    rw [add_sub_add_comm]
    exact (abs_add_le _ _).trans (add_le_add hx hy)
  | difference x y hx hy =>
    simp only [enclose, toReal_difference]
    push_cast
    rw [sub_sub_sub_comm]
    exact (abs_sub _ _).trans (add_le_add hx hy)
  | product x y hx hy =>
    simp only [enclose, toReal_product]
    push_cast
    generalize ((enclose x n).mid : ℝ) = a at *
    generalize ((enclose y n).mid : ℝ) = b at *
    generalize ((enclose x n).rad : ℝ) = p at *
    generalize ((enclose y n).rad : ℝ) = q at *
    have e : a * b - x.toReal * y.toReal
        = a * (b - y.toReal) + b * (a - x.toReal) - (a - x.toReal) * (b - y.toReal) := by ring
    rw [e]
    refine (abs_sub _ _).trans (add_le_add ((abs_add_le _ _).trans (add_le_add ?_ ?_)) ?_)
    · rw [abs_mul]; exact mul_le_mul_of_nonneg_left hy (abs_nonneg _)
    · rw [abs_mul]; exact mul_le_mul_of_nonneg_left hx (abs_nonneg _)
    · rw [abs_mul]; exact mul_le_mul hx hy (abs_nonneg _) ((abs_nonneg _).trans hx)
  | coefficient fc fs h =>
    simp only [enclose, toReal_coefficient]
    generalize (enclose fc n).mid = a at *
    generalize (enclose fc n).rad = p at *
    set t : Rat := a / fs with ht
    have h1 := approxCosine_error (2 * t.den) (n + Nat.log2 ((4 * t.den) ^ 2) + 1) t
      (by have := t.den_pos; omega) (Dvd.intro_left 2 rfl)
    have h2 : ((2 * ((2 * t.den : Nat) : ℝ)) ^ 2) / 2 ^ (n + Nat.log2 ((4 * t.den) ^ 2) + 1) ≤ 1 / 2 ^ n := by
      have hl : (4 * t.den) ^ 2 < 2 ^ (Nat.log2 ((4 * t.den) ^ 2) + 1) := Nat.lt_log2_self
      have hl' : ((4 * t.den : ℕ) : ℝ) ^ 2 < 2 ^ (Nat.log2 ((4 * t.den) ^ 2) + 1) := by exact_mod_cast hl
      have e : (2 * ((2 * t.den : Nat) : ℝ)) = ((4 * t.den : ℕ) : ℝ) := by push_cast; ring
      rw [e, add_assoc, pow_add, div_le_div_iff₀ (by positivity) (by positivity), one_mul, mul_comm]
      gcongr
    have h3 : |Real.cos (2 * Real.pi * t) - Real.cos (2 * Real.pi * fc.toReal / fs)| ≤ 7 * p / fs := by
      refine (abs_cos_sub_cos_le _ _).trans ?_
      have e : 2 * Real.pi * (t : ℝ) - 2 * Real.pi * fc.toReal / fs
          = 2 * Real.pi * ((a - fc.toReal) / fs) := by rw [ht]; push_cast; ring
      have hp : (0 : ℝ) ≤ p := (abs_nonneg _).trans h
      rw [e, abs_mul, abs_div, Nat.abs_cast, abs_of_pos (by positivity : 0 < 2 * Real.pi), mul_div_assoc]
      have hpi : 2 * Real.pi ≤ 7 := by linarith [Real.pi_lt_d2]
      have hd : |(a : ℝ) - fc.toReal| / fs ≤ p / fs := by gcongr
      exact mul_le_mul hpi hd (by positivity) (by norm_num)
    have h4 := (abs_sub_le _ (Real.cos (2 * Real.pi * t)) (Real.cos (2 * Real.pi * fc.toReal / fs))).trans
      (add_le_add (h1.trans h2) h3)
    push_cast
    rw [← mul_sub, abs_mul, abs_two]
    refine (mul_le_mul_of_nonneg_left h4 (by norm_num)).trans (le_of_eq ?_)
    ring

theorem tendsto_const_div_two_pow (c : ℝ) :
    Filter.Tendsto (fun n : ℕ => c / 2 ^ n) Filter.atTop (nhds 0) := by
  have h := (tendsto_pow_atTop_nhds_zero_of_lt_one (r := (1 / 2 : ℝ)) (by norm_num) (by norm_num)).const_mul c
  rw [mul_zero] at h
  refine h.congr fun n => ?_
  rw [one_div, inv_pow, div_eq_mul_inv]

theorem tendsto_mid {x : RealNum}
    (h : Filter.Tendsto (fun n => ((enclose x n).rad : ℝ)) Filter.atTop (nhds 0)) :
    Filter.Tendsto (fun n => ((enclose x n).mid : ℝ)) Filter.atTop (nhds x.toReal) := by
  rw [tendsto_iff_dist_tendsto_zero]
  exact squeeze_zero (fun _ => dist_nonneg) (fun n => by rw [Real.dist_eq]; exact enclose_error x n) h

/-- The intervals shrink to their number. -/
theorem enclose_tendsto (x : RealNum) :
    Filter.Tendsto (fun n => ((enclose x n).rad : ℝ)) Filter.atTop (nhds 0) := by
  induction x with
  | cosines x =>
    refine (tendsto_const_div_two_pow (absSum x.cosines * (2 * commonOrder x.cosines) ^ 2)).congr fun n => ?_
    simp only [enclose]
    push_cast
    rw [foldr_absFactor, mul_div_assoc]
  | constant k =>
    refine (tendsto_const_div_two_pow 1).congr fun n => ?_
    simp [enclose]
  | sum x y hx hy =>
    have h := hx.add hy
    rw [add_zero] at h
    refine h.congr fun n => ?_
    simp [enclose]
  | difference x y hx hy =>
    have h := hx.add hy
    rw [add_zero] at h
    refine h.congr fun n => ?_
    simp [enclose]
  | product x y hx hy =>
    have h := (((tendsto_mid hx).abs.mul hy).add ((tendsto_mid hy).abs.mul hx)).add (hx.mul hy)
    rw [mul_zero, mul_zero, mul_zero, add_zero, add_zero] at h
    refine h.congr fun n => ?_
    simp [enclose]
  | coefficient fc fs h =>
    have h' := (h.const_mul (14 / (fs : ℝ))).add (tendsto_const_div_two_pow 2)
    rw [mul_zero, add_zero] at h'
    refine h'.congr fun n => ?_
    simp only [enclose]
    push_cast
    ring

/-- A search finds an index exactly when there is one. -/
theorem firstIndex_isNone (p : Nat → Bool) : (firstIndex p 0).isNone = true ↔ ∀ n, p n = false := by
  constructor
  · intro h n
    have key : ∀ k m, m + k = n → firstIndex p m = none → p n = false := by
      intro k
      induction k with
      | zero =>
        intro m hm h
        rw [firstIndex] at h
        split at h
        · cases h
        · simp_all
      | succ k ih =>
        intro m hm h
        rw [firstIndex] at h
        split at h
        · cases h
        · exact ih (m + 1) (by omega) h
    exact key n 0 (by omega) (by simpa using h)
  · intro h
    have hp := firstIndex.partial_correctness p (fun _ r => p r = true) (by
      intro f hf n r hr
      split at hr
      · cases hr; assumption
      · exact hf _ _ hr)
    rcases hs : firstIndex p 0 with _ | r
    · rfl
    · have := hp 0 r hs
      rw [h] at this
      cases this

/-- An interval shows a number to be below 0 exactly when it is. -/
theorem shownNegative_iff (x : RealNum) : (∃ n, shownNegative x n = true) ↔ x.toReal < 0 := by
  simp only [shownNegative, decide_eq_true_eq]
  constructor
  · rintro ⟨n, h⟩
    have h' : ((enclose x n).mid : ℝ) + (enclose x n).rad < 0 := by exact_mod_cast h
    have := (abs_le.1 (enclose_error x n)).1
    linarith
  · intro h
    have ht := (tendsto_mid (enclose_tendsto x)).add (enclose_tendsto x)
    rw [add_zero] at ht
    obtain ⟨n, hn⟩ := (ht.eventually_lt_const h).exists
    exact ⟨n, by exact_mod_cast hn⟩

/-- The order is that of the real numbers, whatever the numbers. -/
theorem exactLe_iff (x y : RealNum) : exactLe x y = true ↔ x.toReal ≤ y.toReal := by
  have key : (firstIndex (shownNegative (.difference y x)) 0).isNone = true ↔ x.toReal ≤ y.toReal := by
    rw [firstIndex_isNone, ← not_lt, ← sub_neg, ← toReal_difference, ← shownNegative_iff]
    simp
  unfold exactLe
  split
  · exact cosLe_iff _ _
  · exact key

/-- The order of the exact instance is the order of the real numbers. -/
theorem exactNum_le {x y : RealNum} : exactNum.le x y = true ↔ x.toReal ≤ y.toReal :=
  exactLe_iff x y

/-- The filter state of a feed, in the real numbers (R15, R123). -/
theorem toReal_filterState (c s1 s2 x : RealNum) :
    (filterState exactNum c s1 s2 x).toReal = x.toReal + c.toReal * s1.toReal - s2.toReal := by
  simp [filterState, exactNum, toReal_exactSub, toReal_exactAdd, toReal_exactMul]

/-- The embedding of the integers, in the real numbers. -/
theorem toReal_ofInt (x : Int) : (exactNum.ofInt x).toReal = x := by
  simp [exactNum, toReal_ofRat, Rat.mkRat_eq_div]

/-- The finalised power, in the real numbers (R15, R123). -/
theorem toReal_finalPower (kappa c s0 s1 : RealNum) :
    (finalPower exactNum kappa c s0 s1).toReal
      = kappa.toReal * (s0.toReal * s0.toReal + s1.toReal * s1.toReal - c.toReal * s0.toReal * s1.toReal) := by
  simp [finalPower, exactNum, toReal_exactSub, toReal_exactAdd, toReal_exactMul]

end Sys2Proof.Machine
end

