-- ==== Sys2Proof/Tests/Slice0.lean ====
section
/-! SUPPORT. The model's own tests. Expected values are the spec's: the bit patterns of R81, R82, R85, R92 and
the vectors of `95_test_vectors.md`, named beside each. The last part gives, for every statement with
hypotheses, a state and operands that meet all of them together. -/

namespace Sys2Proof.Tests

open Sys2Proof Sys2Proof.Machine

/-! ### Helpers -/

/-- The operation answered a next state with this property. -/
def after (r : Result) (p : State → Bool) : Bool :=
  match r with
  | .next t => p t
  | .fault _ => false
  | .refused _ => false

/-- The operation was refused for this reason. -/
def refuses (r : Result) (f : Refusal) : Bool :=
  match r with
  | .refused g => decide (g = f)
  | .next _ => false
  | .fault _ => false

/-- The operation stopped with this fault. -/
def faults (r : Result) (f : Fault) : Bool :=
  match r with
  | .fault g => decide (g = f)
  | .next _ => false
  | .refused _ => false

theorem exists_next {r : Result} {p : State → Bool} (h : after r p = true) :
    ∃ t, r = .next t ∧ p t = true := by
  cases r with
  | next t => exact ⟨t, rfl, h⟩
  | fault f => cases h
  | refused f => cases h

/-- Bytes stored from an address on. -/
def bytesAt : Nat → List Byte → Memory
  | _, [] => []
  | a, b :: bs => writeCell (bytesAt (a + 1) bs) a b

/-- The `n` bytes from an address on. -/
def bytesOf (m : Memory) : Nat → Nat → List Byte
  | _, 0 => []
  | a, n + 1 => readCell m a :: bytesOf m (a + 1) n

/-- The memory of V-PST-2: TOY's checksum and defaults. -/
def goodBytes : List Byte := [0xEF, 0xBE, 0x28, 0, 5, 0, 0x64, 0, 0x32, 0, 2, 0]

/-- ACQ running, with the control bits, sum and count of a vector and its flags. -/
def acqRunning (feEn busy : Bool) (sum : Int) (cnt : BitVec 4) (newValue newConv : Bool) : Acq where
  run := true
  feEn := feEn
  convBusy := busy
  sum := .written sum
  cnt := .written cnt
  value := .written 12
  newValue := .written newValue
  newConv := .written newConv
  presc := .written 64
  cmp := .written 78

/-- SPE inside a window, its coefficient and states as given; the last result is 100. -/
def speOn (coeff s1 s2 : Rat) (cnt : Nat) : Spe where
  coeff := .written (.ofRat coeff)
  n := .written 4
  s1 := .written (.ofRat s1)
  s2 := .written (.ofRat s2)
  cnt := .written cnt
  result := .written (.ofRat 100)

/-- `CSM.PROCESS` with rational operands. -/
def process (power high low : Rat) (on off : Word) : Instr :=
  .csmProcess .fg (.ofRat power) (.ofRat high) (.ofRat low) on off

/-- CSM with everything written. -/
def csmOn (m : Mode) (rd : Decision) (above below blink : Nat) : Csm :=
  ⟨.written m, .written rd, .written above, .written below, .written blink⟩

/-- A state in the middle of things: acquisition running between groups, an open window, a closed relay
decision, the memory of V-PST-2. -/
def live : State where
  acq := acqRunning false false 0 0 true true
  spe := speOn 0 5 0 1
  csm := csmOn .auto .closed 3 0 3
  asleep := false
  nvm := bytesAt 0 goodBytes
  cfg := Config.toy
  job := none
  pending := []
  foreground := .boot1
  out := StepOutput.quiet
  epoch := 0

/-- The same with a conversion in progress, and the foreground asleep. -/
def converting (sum : Int) (cnt : BitVec 4) : State :=
  (live.withAcq (acqRunning true true sum cnt false false)).withAsleep true

/-- The same with acquisition stopped. -/
def stopped : State :=
  live.withAcq { acqRunning false false 0 0 false false with run := false }

/-! ### WellFormed: each check refuses an ill-formed term -/

theorem test_wellFormed_accepts :
    Instr.wellFormed Config.toy (.acqTake .fg 3) = true
      ∧ Instr.wellFormed Config.toy (process 50 40 30 2 1) = true := by decide

theorem test_wellFormed_refuses_context :
    Instr.wellFormed Config.toy (.speFeed .int 1) = false
      ∧ Instr.wellFormed Config.toy (.acqConv .fg 1) = false
      ∧ Instr.wellFormed Config.toy (.sysWait .int) = false := by decide

theorem test_wellFormed_refuses_reserved_bits :
    Instr.wellFormed Config.toy (.acqTake .fg 4) = false
      ∧ Instr.wellFormed Config.toy (.csmInit .fg 3) = false := by decide

theorem test_wellFormed_refuses_ranges :
    Instr.wellFormed Config.toy (.acqInit .fg 100) = false
      ∧ Instr.wellFormed Config.toy (.acqConv .int 512) = false
      ∧ Instr.wellFormed Config.toy (.acqConv .int (-513)) = false
      ∧ Instr.wellFormed Config.toy (.speFeed .fg 8192) = false
      ∧ Instr.wellFormed Config.toy (process 0 0 0 256 0) = false
      ∧ Instr.wellFormed Config.toy (process 0 0 0 0 256) = false := by decide

theorem test_configuration_toy : Machine.wellFormed Config.toy = true := by decide

/-- V-ACQ-28, V-ACQ-29: no prescaler fits. -/
theorem test_configuration_refuses_rates :
    Machine.wellFormed { Config.toy with fs := 50 } = false
      ∧ Machine.wellFormed { Config.toy with fs := 2000000 } = false
      ∧ Machine.wellFormed { Config.toy with fs := 0 } = false
      ∧ Machine.wellFormed { Config.toy with prescalers := [8, 1] } = false
      ∧ Machine.wellFormed { Config.toy with prescalers := [] } = false
      ∧ Machine.wellFormed { Config.toy with fClk := 0 } = false
      ∧ Machine.wellFormed { Config.toy with timerMax := 0 } = false := by decide

theorem test_configuration_refuses_widths :
    Machine.wellFormed { Config.toy with rawBits := 0 } = false
      ∧ Machine.wellFormed { Config.toy with rawBits := 17, accBits := 21 } = false
      ∧ Machine.wellFormed { Config.toy with accBits := 13 } = false
      ∧ Machine.wellFormed { Config.toy with cntBits := 0, onDelay := 0 } = false
      ∧ Machine.wellFormed { Config.toy with onDelay := 255 } = false
      ∧ Machine.wellFormed { Config.toy with offDelayMax := 255 } = false
      ∧ Machine.wellFormed { Config.toy with blinkTicks := 0 } = false
      ∧ Machine.wellFormed { Config.toy with kappa := .ofRat 0 } = false
      ∧ Machine.wellFormed { Config.toy with hyst := .ofRat (-1) } = false
      ∧ Machine.wellFormed { Config.toy with wdMult := 1 } = false := by decide

theorem test_configuration_refuses_stores :
    Machine.wellFormed { Config.toy with stride := 3 } = false
      ∧ Machine.wellFormed { Config.toy with nvmSize := 11 } = false
      ∧ Machine.wellFormed { Config.toy with idxMode := 5 } = false
      ∧ Machine.wellFormed { Config.toy with idxMode := 0 } = false
      ∧ Machine.wellFormed { Config.toy with schema := Config.toySchema.take 4 } = false
      ∧ Machine.wellFormed { Config.toy with schema := ⟨"X", 3, 2, 2⟩ :: Config.toySchema } = false := by
  decide

/-! ### Decoding, from the words of R81, R82, R85 written out -/

/-- R85: no two rows share a code. -/
theorem test_opMap_distinct : (opMap.map OpRow.code).Nodup ∧ opMap.length = 23 := by decide

/-- ACQ, unit 0001: codes 0001_0000 to 0001_0100, the operand from bit 8 on. -/
theorem test_decode_acq :
    decodeTableWord 40 0b00000000_00000000_00000000_11001000_00010000 = some (.acqInit .fg 200)
      ∧ decodeTableWord 8 0b00010001 = some (.acqShutdown .fg)
      ∧ decodeTableWord 8 0b00010010 = some (.acqPeriod .int)
      ∧ decodeTableWord 40 0b11111111_11111111_11111111_11111011_00010011 = some (.acqConv .int (-5))
      ∧ decodeTableWord 40 0b00000000_00000000_00000000_00000011_00010100 = some (.acqTake .fg 3) := by
  decide

/-- SPE, unit 0010. -/
theorem test_decode_spe :
    decodeTableWord 40 0b00000000_00000000_00000000_00110010_00100000 = some (.speInit .fg (.ofRat 50))
      ∧ decodeTableWord 40 0b11111111_11111111_11111111_11101100_00100001 = some (.speFeed .fg (-20))
      ∧ decodeTableWord 8 0b00100010 = some (.speReset .fg)
      ∧ decodeTableWord 8 0b00100011 = some (.speGetResult .fg) := by decide

/-- CSM, unit 0011. -/
theorem test_decode_csm :
    decodeTableWord 40 0b00000000_00000000_00000000_00000010_00110000 = some (.csmInit .fg 2)
      ∧ decodeTableWord 168 0x00000001_00000002_0000001E_00000028_00000032_31
        = some (process 50 40 30 2 1)
      ∧ decodeTableWord 8 0b00110010 = some (.csmShort .fg)
      ∧ decodeTableWord 8 0b00110011 = some (.csmLong .fg)
      ∧ decodeTableWord 8 0b00110100 = some (.csmTick .fg) := by decide

/-- PST, unit 0100. -/
theorem test_decode_pst :
    decodeTableWord 8 0b01000000 = some (.pstInit .fg)
      ∧ decodeTableWord 8 0b01000001 = some (.pstResetAll .fg)
      ∧ decodeTableWord 40 0b00000000_00000000_00000000_00000011_01000010 = some (.pstGet .fg 3)
      ∧ decodeTableWord 72 0x000003E8_00000000_43 = some (.pstSet .fg 0 1000)
      ∧ decodeTableWord 40 0b00000000_00000000_00000000_00000001_01000100 = some (.pstGetRange .fg 1) := by
  decide

/-- SYS, unit 0101. -/
theorem test_decode_sys :
    decodeTableWord 8 0b01010000 = some (.sysWait .fg)
      ∧ decodeTableWord 8 0b01010001 = some (.sysWdkick .fg)
      ∧ decodeTableWord 8 0b01010010 = some (.sysSerial .int)
      ∧ decodeTableWord 8 0b01010011 = some (.sysRestart .fg) := by decide

/-- The context is a field of its own (V-ENC-3, V-ENC-5), and unused fields are ignored (V-ENC-6). -/
theorem test_decode_context_and_unused_fields :
    decode (recordA .int 0x21 1) = .ok (.speFeed .int 1)
      ∧ decode (recordZ .int 0x11) = .ok (.acqShutdown .int)
      ∧ decode (recordA .fg 0x22 0xDEADBEEF) = .ok (.speReset .fg) := ⟨rfl, rfl, rfl⟩

/-- V-ENC-1, V-ENC-2. -/
theorem test_decode_illegal :
    decode (recordZ .fg 0x15) = .error (.illegalCommand 0x15)
      ∧ decode (recordZ .fg 0x00) = .error (.illegalCommand 0x00)
      ∧ decode (recordZ .fg 0x24) = .error (.illegalCommand 0x24)
      ∧ decode (recordZ .fg 0x35) = .error (.illegalCommand 0x35)
      ∧ decode (recordZ .fg 0x45) = .error (.illegalCommand 0x45)
      ∧ decode (recordZ .fg 0x54) = .error (.illegalCommand 0x54)
      ∧ decode (recordZ .fg 0x60) = .error (.illegalCommand 0x60)
      ∧ decode (recordZ .fg 0xFF) = .error (.illegalCommand 0xFF) :=
  ⟨rfl, rfl, rfl, rfl, rfl, rfl, rfl, rfl⟩

/-- A line of P3 and one of P5 in the binary form (R92): the words most significant byte first. -/
theorem test_trace_lines :
    encodeTrace (process 50 40 30 2 1)
        = [.byte 0x31, .real (.ofRat 50), .real (.ofRat 40), .real (.ofRat 30), .byte 0, .byte 0, .byte 0, .byte 2,
           .byte 0, .byte 0, .byte 0, .byte 1]
      ∧ encodeTrace (.pstSet .fg 0 1000)
        = [.byte 0x43, .byte 0, .byte 0, .byte 0, .byte 0, .byte 0, .byte 0, .byte 3, .byte 0xE8]
      ∧ encodeTrace (.acqShutdown .int) = [.byte 0x11, .atInt] := by decide

/-- A line of P3 in tokens (R90). -/
theorem test_assemble :
    assemble none "CSM.PROCESS" [.real (.ofRat 50), .real (.ofRat 40), .real (.ofRat 30), .int 2, .int 1]
        = some (encode (process 50 40 30 2 1))
      ∧ assemble (some .int) "ACQ.SHUTDOWN" [] = some (encode (.acqShutdown .int))
      ∧ assemble none "ACQ.CONV" [] = none := by decide

/-- R200: the status codes. -/
theorem test_status_codes :
    statusCode .ok = 0 ∧ statusCode (.indexOutOfRange 5) = 1 ∧ statusCode (.valueTooLarge 0 1001) = 2
      ∧ statusCode (.valueTooSmall 0 0) = 3 ∧ statusCode (.illegalCommand 0x15) = 4 := by decide

/-! ### ACQ -/

/-- V-ACQ-27, and V-ACQ-20: a partial group is discarded, `VALUE` stays. -/
theorem test_acqInit : after (exec (.acqInit .fg 200) live) (fun t =>
    t.acq == { acqRunning false false 0 0 false false with presc := .written 64, cmp := .written 78 })
      = true := by decide

/-- V-ACQ-25, V-ACQ-26. -/
theorem test_acqInit_prescalers :
    timerChoice Config.toy 4000 = some (1, 250) ∧ timerChoice Config.toy 1000 = some (8, 125) := by decide

/-- V-ACQ-19. -/
theorem test_acqShutdown :
    after (exec (.acqShutdown .int) (live.withAcq (acqRunning true true 70 7 true false))) (fun t =>
      t.acq == { acqRunning false false 70 7 true false with run := false }) = true := by decide

/-- V-ACQ-13: an overrun changes nothing but `NEW_CONV` and `ASLEEP`. -/
theorem test_acqPeriod :
    after (exec (.acqPeriod .int) ((live.withAcq (acqRunning true false 35 7 false false)).withAsleep true))
      (fun t => t.acq == acqRunning true false 35 7 false true && !t.asleep) = true := by decide

/-- V-ACQ-11. -/
theorem test_acqConv_sixteenth : after (exec (.acqConv .int 3) (converting 45 15)) (fun t =>
    t.acq == { acqRunning false false 0 0 true false with value := .written 12 } && !t.asleep) = true := by
  decide

/-- V-ACQ-12, and V-ACQ-4's floor. -/
theorem test_acqConv_middle :
    after (exec (.acqConv .int (-4)) (converting 9 3)) (fun t =>
        t.acq == acqRunning true false 5 4 false false) = true
      ∧ after (exec (.acqConv .int (-1)) (converting 0 15)) (fun t => t.acq.value == .written (-1)) = true := by
  decide

/-- V-ACQ-18: the first take answers 3 and 12. -/
theorem test_acqTake : after (exec (.acqTake .fg 3) live) (fun t =>
    t.out.rsp == some ⟨.ok, .bits 2 3, .int 12, .none⟩ && t.acq == acqRunning false false 0 0 false false)
      = true := by decide

/-- V-ACQ-17: only the second flag is taken. -/
theorem test_acqTake_one : after (exec (.acqTake .fg 2) live) (fun t =>
    t.acq == acqRunning false false 0 0 true false && t.out.rsp.map Response.d0 == some (.bits 2 2))
      = true := by decide

/-! ### SPE -/

/-- V-SPE-29: the coefficients at 0 and 50 Hz, and section 2.2's at a sixth, a third and a half. -/
theorem test_speInit :
    after (exec (.speInit .fg (.ofRat 0)) live) (fun t => t.spe == speOn 2 5 0 1) = true
      ∧ exactCoeff (.ofRat 50) 200 = .ofRat 0 ∧ exactCoeff (.ofRat 50) 300 = .ofRat 1
      ∧ exactCoeff (.ofRat 50) 150 = .ofRat (-1) ∧ exactCoeff (.ofRat 50) 100 = .ofRat (-2) := by decide

/-- The square root of 2. -/
def sqrtTwo : RealNum :=
  .cosines (twiceCosine (mkRat 1 8))

/-- V-SPE-21: the frequency `FS/8` has the coefficient the square root of 2, with which a window holding one
sample 1 ends in the states 0, -1 with the power 1. -/
theorem test_speFeed_irrational :
    exactCoeff (.ofRat 25) 200 = sqrtTwo ∧ exactMul sqrtTwo sqrtTwo = .ofRat 2
      ∧ after (exec (.speFeed .fg 0) (live.withSpe
        { coeff := .written sqrtTwo, n := .written 8, s1 := .written (.ofRat (-1)),
          s2 := .written (exactMul (.ofRat (-1)) sqrtTwo), cnt := .written 7, result := .unwritten })) (fun t =>
        t.spe.s1 == .written (.ofRat 0) && t.spe.s2 == .written (.ofRat (-1))
          && t.spe.result == .written (.ofRat 1)) = true := by decide

/-- The square root of 2 is below 3/2, not above it; and two irrational cosines have the product -1. -/
theorem test_exact_order :
    exactLe sqrtTwo (.ofRat (mkRat 3 2)) = true ∧ exactLe (.ofRat (mkRat 3 2)) sqrtTwo = false
      ∧ rationalOf (exactMul (.cosines (twiceCosine (mkRat 1 5))) (.cosines (twiceCosine (mkRat 2 5))))
        = some (-1) := by
  decide +kernel

/-- A frequency of the square root of 2: the coefficient is no sum of cosines, and its order is still the real
numbers' (it is not above 2, and 3 is above it). -/
theorem test_irrational_frequency :
    exactCoeff sqrtTwo 200 = .coefficient sqrtTwo 200
      ∧ exactLe (exactCoeff sqrtTwo 200) (.ofRat 2) = true
      ∧ exactLe (.ofRat 3) (exactCoeff sqrtTwo 200) = false := by
  have h := abs_le.1 (abs_exactCoeff_le sqrtTwo 200)
  refine ⟨by decide +kernel, ?_, ?_⟩
  · rw [exactLe_iff, toReal_ofRat]
    exact_mod_cast h.2
  · rw [← Bool.not_eq_true, exactLe_iff, toReal_ofRat, not_le]
    refine h.2.trans_lt ?_
    norm_num

/-- V-SPE-12, the last two feeds: 3 and 4 with the coefficient 1 end at 31. -/
theorem test_speFeed :
    after (exec (.speFeed .fg 3) (live.withSpe (speOn 1 3 1 2))) (fun t =>
        t.spe == speOn 1 5 3 3 && t.out.rsp == some ⟨.ok, .bits 1 0, .none, .none⟩) = true
      ∧ after (exec (.speFeed .fg 4) (live.withSpe (speOn 1 5 3 3))) (fun t =>
        t.spe == { speOn 1 6 5 4 with result := .written (.ofRat 31) }
          && t.out.rsp == some ⟨.ok, .bits 1 1, .none, .none⟩) = true := by decide

/-- V-SPE-24. -/
theorem test_speFeed_completed :
    refuses (exec (.speFeed .fg 1) (live.withSpe (speOn 0 0 (-10) 4))) .windowComplete = true := by decide

/-- V-SPE-25. -/
theorem test_speReset : after (exec (.speReset .fg) live) (fun t => t.spe == speOn 0 0 0 0) = true := by
  decide

/-- V-SPE-23, V-SPE-26. -/
theorem test_speGetResult :
    after (exec (.speGetResult .fg) live) (fun t =>
        t.out.rsp == some ⟨.ok, .real (.ofRat 100), .none, .none⟩) = true
      ∧ refuses (exec (.speGetResult .fg) State.reset) (.unwrittenElement "SPE.RESULT") = true := by decide

/-! ### CSM -/

/-- Section 2.3's start, and V-CSM-11. -/
theorem test_csmInit :
    after (exec (.csmInit .fg 2) State.reset) (fun t => t.csm == csmOn .auto .opened 0 0 0) = true
      ∧ refuses (exec (.csmInit .fg 3) State.reset) .operandOutOfRange = true := by decide

/-- V-CSM-1's third call, and V-CSM-2's second. -/
theorem test_csmProcess :
    after (exec (process 50 40 30 2 1) (live.withCsm (csmOn .auto .opened 2 0 0))) (fun t =>
        t.csm == csmOn .auto .closed 3 0 0) = true
      ∧ after (exec (process 20 40 30 2 1) (live.withCsm (csmOn .auto .closed 3 1 0))) (fun t =>
        t.csm == csmOn .auto .opened 0 2 0) = true := by decide

/-- V-CSM-5: both comparisons are inclusive; V-CSM-4: in between nothing changes. -/
theorem test_csmProcess_bounds :
    after (exec (process 40 40 30 0 0) (live.withCsm (csmOn .auto .opened 0 0 0))) (fun t =>
        t.csm == csmOn .auto .closed 1 0 0) = true
      ∧ after (exec (process 39 40 30 2 0) (live.withCsm (csmOn .auto .opened 0 0 0))) (fun t =>
        t.csm == csmOn .auto .opened 0 0 0) = true := by decide

/-- P4 lines 13 and 8: from Auto and from On to Off. -/
theorem test_csmShort :
    after (exec (.csmShort .fg) live) (fun t =>
        t.csm == csmOn .off .closed 3 0 0 && !relayOut t && !indOut t) = true
      ∧ after (exec (.csmShort .fg) (live.withCsm (csmOn .on .closed 3 0 0))) (fun t =>
        t.csm == csmOn .off .closed 3 0 0) = true := by decide

/-- V-CSM-13, and P4 line 1. -/
theorem test_csmLong :
    after (exec (.csmLong .fg) live) (fun t =>
        t.csm == csmOn .on .closed 3 0 0 && relayOut t && indOut t) = true
      ∧ after (exec (.csmLong .fg) (live.withCsm (csmOn .off .closed 3 0 0))) (fun t =>
        t.csm == csmOn .auto .closed 3 0 0 && relayOut t && indOut t) = true := by decide

/-- V-CSM-12: the phase wraps after 3, and the indicator is lit in the first half. -/
theorem test_csmTick :
    after (exec (.csmTick .fg) live) (fun t => t.csm.blink == .written 0 && indOut t) = true
      ∧ after (exec (.csmTick .fg) (live.withCsm (csmOn .auto .opened 0 0 1))) (fun t =>
        t.csm.blink == .written 2 && !indOut t) = true := by decide

/-! ### PST -/

/-- V-PST-1. -/
theorem test_pstInit_resets : after (execWhole (.pstInit .fg) State.reset) (fun t =>
    bytesOf t.nvm 0 12 == goodBytes && t.out.rsp == some ⟨.ok, .bits 1 1, .none, .none⟩) = true := by decide

/-- V-PST-2. -/
theorem test_pstInit_keeps : after (exec (.pstInit .fg) stopped) (fun t =>
    t.nvm == stopped.nvm && t.out.rsp == some ⟨.ok, .bits 1 0, .none, .none⟩) = true := by decide

/-- V-PST-4: cut after its third write, the checksum is still the foreign one. -/
theorem test_pstResetAll_cut :
    after (exec (.pstResetAll .fg) (stopped.withNvm
      (bytesAt 0 [0x34, 0x12, 0xE8, 3, 0xFF, 0xFF, 0, 0, 0x41, 0, 9, 0]))) (fun t =>
        after (storeSteps 2 t) fun u => after (exec (.sysRestart .fg) u) fun v =>
          bytesOf v.nvm 0 12 == [0x34, 0x12, 0x28, 0, 5, 0, 0x64, 0, 0x41, 0, 9, 0] && v.job.isNone)
      = true := by decide

/-- V-PST-9, and V-PST-3's value out of range. -/
theorem test_pstGet :
    after (exec (.pstGet .fg 3) stopped) (fun t => t.out.rsp == some ⟨.ok, .int 50, .none, .none⟩) = true
      ∧ after (exec (.pstGet .fg 5) stopped) (fun t => lastStatus t == some (.indexOutOfRange 5)) = true
      ∧ after (exec (.pstGet .fg 1) State.reset) (fun t =>
        t.out.rsp == some ⟨.ok, .int 65535, .none, .none⟩) = true := by decide

/-- V-PST-6, V-PST-7. -/
theorem test_pstSet :
    after (exec (.pstSet .fg 0 1000) stopped) (fun t => bytesOf t.nvm 0 6 == [0xEF, 0xBE, 0xE8, 3, 5, 0]) = true
      ∧ after (exec (.pstSet .fg 0 1001) stopped) (fun t =>
        lastStatus t == some (.valueTooLarge 0 1001) && t.nvm == stopped.nvm) = true
      ∧ after (exec (.pstSet .fg 0 0) stopped) (fun t => lastStatus t == some (.valueTooSmall 0 0)) = true
      ∧ after (exec (.pstSet .fg 5 1) stopped) (fun t => lastStatus t == some (.indexOutOfRange 5)) = true := by
  decide

/-- V-PST-11, V-PST-12. -/
theorem test_store_encodings :
    bytesOf (writeLE [] (slot { Config.toy with stride := 4 } 1) 4 70000) 6 4 = [0x70, 0x11, 1, 0]
      ∧ encodeValue { Config.toy with pvalSigned := true } (-3) = 0xFFFD
      ∧ decodeValue { Config.toy with pvalSigned := true } 0xFFFD = -3 := by decide

/-- V-PST-9. -/
theorem test_pstGetRange : after (exec (.pstGetRange .fg 1) stopped) (fun t =>
    t.out.rsp == some ⟨.ok, .int 0, .int 600, .label "DELAY"⟩) = true := by decide

/-! ### SYS -/

/-- V-SYS-1, V-SYS-3. -/
theorem test_sysWait :
    after (exec (.sysWait .fg) (live.withAcq (acqRunning true false 0 0 false false))) (fun t =>
        t.acq.convBusy && t.asleep && convStart t) = true
      ∧ after (exec (.sysWait .fg) (live.withAcq (acqRunning true true 0 0 false false))) (fun t =>
        t.acq.convBusy && t.asleep && !convStart t) = true := by decide

/-- V-SYS-7. -/
theorem test_sysWdkick : after (exec (.sysWdkick .fg) live) (fun t =>
    wdKick t && t.acq == live.acq && t.spe == live.spe && t.csm == live.csm && t.nvm == live.nvm)
      = true := by decide

/-- V-SYS-6, and V-SYS-5 before it. -/
theorem test_sysSerial :
    after (exec (.sysSerial .int) (live.withAsleep true)) (fun t => !t.asleep && t.acq == live.acq) = true
      ∧ refuses (exec (.acqTake .fg 3) (live.withAsleep true)) .foregroundAsleep = true := by decide

/-- V-SYS-8. -/
theorem test_sysRestart : after (exec (.sysRestart .int) (converting 45 15)) (fun t =>
    t.acq == Acq.reset && t.spe == Spe.reset && t.csm == Csm.reset && !t.asleep && t.nvm == live.nvm)
      = true := by decide

/-- R65: a record of another agent falls between two writes of a store reset, one of the foreground
waits. -/
theorem test_step_interleaves :
    after (step ((stopped.withJob (some ⟨1, false⟩)).withPending [.record (encode (.sysSerial .int))]))
        (fun t => t.job == some ⟨1, false⟩ && t.pending == []) = true
      ∧ after (step ((stopped.withJob (some ⟨1, false⟩)).withPending [.record (encode (.pstGet .fg 0))]))
        (fun t => t.job == some ⟨2, false⟩ && t.pending == [.record (encode (.pstGet .fg 0))]) = true := by
  decide

/-- `withFetchWord` places a word where the next step finds it. -/
theorem test_withFetchWord : after (step (State.reset.withFetchWord 72 0x000003E8_00000000_43)) (fun t =>
    bytesOf t.nvm 2 2 == [0xE8, 3] && t.pending == []) = true := by decide

/-- R232, lines 3 and 4: the mode is read and acquisition begun, and the position moves. -/
theorem test_reference_boot : after (foregroundTurns 2 { stopped with foreground := .boot3 (.ofRat 50) })
    (fun t => t.foreground == .boot5 (.ofRat 50) .auto && t.acq.run) = true := by decide

/-- R187, step 1: a taken value is fed, and else the wait is next. -/
theorem test_reference_loop :
    after (foregroundTurns 2 { live with foreground := .step1 }) (fun t =>
        t.foreground == .step5 && t.spe.cnt == .written 2) = true
      ∧ after (foregroundTurns 2 { stopped with foreground := .step1 }) (fun t =>
        t.foreground == .step1 && t.asleep) = true := by decide

/-- R230: a restart puts the foreground agent back at the start of the boot sequence. -/
theorem test_restart_foreground :
    after (exec (.sysRestart .int) { live with foreground := .kick }) (fun t => t.foreground == .boot1)
      = true := by decide

/-- R14, R209: a key event is not enabled while the foreground sleeps. -/
theorem test_key_event_asleep :
    faults (exec (.csmShort .fg) (live.withAsleep true)) .eventNotEnabled = true
      ∧ faults (exec (.csmLong .fg) (live.withAsleep true)) .eventNotEnabled = true := by decide

/-- R240: an `ACQ.INIT` of the interrupt context overtakes a store reset, whose next write is refused. -/
theorem test_store_reset_overtaken :
    after (exec (.acqInit .int 200) (stopped.withJob (some ⟨1, false⟩))) (fun t =>
      t.acq.run && refuses (step t) .storeWhileRunning) = true := by decide

/-! ### Witnesses: each statement's hypotheses are met together -/

/-- The presenting conditions hold in the states the witnesses use. -/
theorem test_witness_ready :
    fgReady live ∧ fgReady stopped ∧ fgReady State.reset ∧ readyIn .fg live ∧ readyIn .int (converting 0 0) := by
  decide

/-- `SpeInitSetsCoefficientAndLength`, `SpeResetZeroesTheWindow`, `SysWaitSleepsAndStartsAConversion`,
`WatchdogKickAndSerialWake`: `fgReady` alone. -/
theorem test_witness_fgReady : fgReady live ∧ Machine.wellFormed live.cfg = true := by decide

/-- One operation of each kind, for `TraceRoundTrip`. -/
def sampleTrace : List Instr :=
  [.acqInit .int 200, .acqShutdown .int, .acqShutdown .fg, .acqPeriod .int, .acqConv .int (-5),
   .acqTake .fg 3, .speInit .fg (.ofRat 50), .speFeed .fg 20, .speReset .fg, .speGetResult .fg, .csmInit .fg 2,
   process 160 40 30 1 5, .csmShort .fg, .csmLong .fg, .csmTick .fg, .pstInit .fg, .pstResetAll .fg,
   .pstGet .fg 3, .pstSet .fg 0 0xFFFFFFFF, .pstGetRange .fg 1, .sysWait .fg, .sysWdkick .fg,
   .sysSerial .int, .sysRestart .fg]

theorem test_witness_TraceRoundTrip :
    (∀ i ∈ sampleTrace, i.traceable = true) ∧ readTrace (sampleTrace.flatMap encodeTrace) = .ok sampleTrace :=
  ⟨by decide, rfl⟩

theorem test_witness_IllegalCodesAnswerAndWriteNothing :
    let s := live.withPending [.record (recordZ .fg 0x15)]
    Machine.wellFormed s.cfg = true ∧ s.job = none ∧ s.pending = .record (recordZ .fg 0x15) :: []
      ∧ opRow (recordZ .fg 0x15).op = none := by decide

theorem test_witness_UnusedFieldsIgnoredBadOperandsRefused :
    (opRow 0x22 = some ⟨0x22, "SPE.RESET", .z, .fgOnly, false⟩
        ∧ usedFields (recordA .fg 0x22 0xDEADBEEF) .z = usedFields (recordZ .fg 0x22) .z)
      ∧ (fgReady live ∧ 4 ≤ (4 : Word).toNat ∧ 3 ≤ (3 : Word).toNat)
      ∧ (Instr.contextAllowed (.speFeed .fg 8192) = true
        ∧ Instr.operandsInRange live.cfg (.speFeed .fg 8192) = false)
      ∧ (fgReady ((converting 0 0).withAsleep false)
        ∧ Instr.operandsInRange live.cfg (.acqConv .int 512) = false
        ∧ (converting 0 0).acq.run = true ∧ (converting 0 0).acq.feEn = true
        ∧ (converting 0 0).acq.convBusy = true) := by decide

theorem test_witness_StepRunsTheDecodedOperation :
    let s := live.withPending [.record (encode (.pstGet .fg 0))]
    let u := (live.withJob (some ⟨5, true⟩)).withPending [.record (encode (.sysRestart .fg))]
    (s.pending = [.record (encode (.pstGet .fg 0))] ∧ s.job = none
        ∧ decode (encode (.pstGet .fg 0)) = .ok (.pstGet .fg 0))
      ∧ (u.pending = [.record (encode (.sysRestart .fg))] ∧ waitsForForeground (encode (.sysRestart .fg)) = false
        ∧ decode (encode (.sysRestart .fg)) = .ok (.sysRestart .fg)) :=
  ⟨⟨rfl, rfl, rfl⟩, ⟨rfl, rfl, rfl⟩⟩

theorem test_witness_StepResumesTheStoreReset :
    let s := stopped.withJob (some ⟨5, true⟩)
    Machine.wellFormed s.cfg = true ∧ s.job = some ⟨5, true⟩ ∧ s.pending = [] ∧ s.acq.run = false
      ∧ (live.withJob (some ⟨5, true⟩)).acq.run = true
      ∧ (s.withPending [.advance]).pending = [.advance]
      ∧ waitsForForeground (encode (.pstGet .fg 0)) = true := by decide

theorem test_witness_WrongContextIsRefused :
    Machine.wellFormed live.cfg = true
      ∧ opRow (encode (.speFeed .int 1)).op = some ⟨0x21, "SPE.FEED", .a, .fgOnly, false⟩
      ∧ (Instr.speFeed .int 1).ctx = .int
      ∧ opRow (encode (.acqConv .fg 1)).op = some ⟨0x13, "ACQ.CONV", .a, .intOnly, true⟩
      ∧ (Instr.acqConv .fg 1).ctx = .fg := by decide

theorem test_witness_SleepingForegroundPresentsNothing :
    opRow (encode (.csmShort .fg)).op = some ⟨0x32, "CSM.SHORT", .z, .fgOnly, true⟩
      ∧ (Machine.wellFormed live.cfg = true ∧ (live.withAsleep true).asleep = true
        ∧ opRow (encode (.acqShutdown .fg)).op = some ⟨0x11, "ACQ.SHUTDOWN", .z, .either, false⟩)
      ∧ (opRow (encode (.sysSerial .int)).op = some ⟨0x52, "SYS.SERIAL", .z, .intOnly, true⟩
        ∧ after (exec (.sysSerial .int) (live.withAsleep true)) (fun _ => true) = true)
      ∧ after (exec (.sysWait .fg) live) (fun _ => true) = true := by decide

theorem test_witness_IllFormedConfigurationHasNoStep :
    Machine.wellFormed { live with cfg := { Config.toy with fs := 50 } }.cfg = false := by decide

theorem test_witness_ErrorsWriteNoState :
    (∃ t, exec (.pstGet .fg 5) live = .next t
        ∧ decide (lastStatus t = some (.indexOutOfRange 5) ∧ Status.indexOutOfRange 5 ≠ .ok) = true)
      ∧ ((Instr.sysSerial .int).ctx = .int ∧ ∃ t, exec (.sysSerial .int) live = .next t ∧ true = true) :=
  ⟨exists_next (by decide), rfl, exists_next (by decide)⟩

theorem test_witness_AcqInitStartsAcquisition :
    readyIn .fg live ∧ readyIn .int (converting 0 0) ∧ (200 : Word).toNat = live.cfg.fs
      ∧ (201 : Word).toNat ≠ live.cfg.fs ∧ (0 : Word).toNat ≠ live.cfg.fs := by decide

theorem test_witness_AcqShutdownClearsTheControlBits :
    readyIn .fg live ∧ readyIn .int (converting 0 0) := by decide

theorem test_witness_AcqPeriodEnablesTheFrontEnd :
    Machine.wellFormed live.cfg = true ∧ live.acq.run = true ∧ stopped.acq.run = false := by decide

/-- The smallest and the largest sample, on the fifteenth and the sixteenth conversion. -/
theorem test_witness_AcqConvAccumulatesAndPublishes :
    (Machine.wellFormed live.cfg = true
        ∧ (converting 45 15).acq.run = true ∧ (converting 45 15).acq.feEn = true
        ∧ (converting 45 15).acq.convBusy = true
        ∧ -(2 : Int) ^ (live.cfg.rawBits - 1) ≤ (-512 : Word).toInt
        ∧ (-512 : Word).toInt < (2 : Int) ^ (live.cfg.rawBits - 1)
        ∧ -(2 : Int) ^ (live.cfg.rawBits - 1) ≤ (511 : Word).toInt
        ∧ (511 : Word).toInt < (2 : Int) ^ (live.cfg.rawBits - 1)
        ∧ (converting 45 15).acq.sum = .written 45 ∧ (converting 45 15).acq.cnt = .written 15)
      ∧ (converting 42 14).acq.cnt = .written 14
      ∧ (stopped.acq.run = false ∧ live.acq.feEn = false ∧ live.acq.convBusy = false) := by decide

theorem test_witness_AcqTakeReadsAndClears :
    (fgReady live ∧ (0 : Word).toNat < 4 ∧ (3 : Word).toNat < 4 ∧ live.acq.newValue = .written true
        ∧ live.acq.newConv = .written true ∧ live.acq.value = .written 12)
      ∧ (fgReady State.reset ∧ (3 : Word).getLsbD 0 = true ∧ State.reset.acq.newValue = .unwritten
        ∧ (3 : Word).getLsbD 1 = true ∧ State.reset.acq.newConv = .unwritten) := by decide

/-- The fifteen conversions before the last one of V-ACQ-1's group, and a wait. -/
def fifteen : List Instr :=
  groupOps (List.replicate 15 3) ++ [.sysWait .fg]

theorem test_witness_SixteenConversionsPublishTheirSum :
    (live.acq.sum = .written 0 ∧ live.acq.cnt = .written 0 ∧ (∀ i ∈ fifteen, endsGroup i = false)
        ∧ (rawSamples fifteen).length = 15)
      ∧ ∃ t, execAll (fifteen ++ [.acqConv .int 3]) live = .next t
        ∧ (t.acq.value == .written 12) = true :=
  ⟨by decide, exists_next (by decide)⟩

theorem test_witness_GroupCompletesAndFlagsOnce :
    fgReady live ∧ live.acq.run = true ∧ live.acq.convBusy = false ∧ live.acq.sum = .written 0
      ∧ live.acq.cnt = .written 0
      ∧ (∀ w ∈ List.replicate 16 (-512 : Word), -(2 : Int) ^ (live.cfg.rawBits - 1) ≤ w.toInt
        ∧ w.toInt < (2 : Int) ^ (live.cfg.rawBits - 1))
      ∧ (List.replicate 15 (-512 : Word)).length < 16 ∧ (List.replicate 16 (-512 : Word)).length = 16
      ∧ (∀ w ∈ List.replicate 16 (-512 : Word), w.toInt = -512) := by
  refine ⟨by decide, rfl, rfl, rfl, rfl, fun w hw => ?_, by decide, by decide, fun w hw => ?_⟩ <;>
    (rw [List.eq_of_mem_replicate hw]; decide)

theorem test_witness_NoStaleCompletion :
    ((∀ i ∈ [Instr.sysSerial .int, .sysWait .fg], ∀ c rate, i ≠ .acqInit c rate)
        ∧ ∃ t, execAll [.acqShutdown .fg, .sysSerial .int, .sysWait .fg] live = .next t ∧ true = true)
      ∧ (after (execAll [.acqInit .fg 200, .acqPeriod .int, .sysWait .fg] live) fun t =>
        after (exec (.acqConv .int 3) t) fun _ => true) = true :=
  ⟨⟨by simp, exists_next (by decide)⟩, by decide⟩

theorem test_witness_OneConversionPerWait :
    ∃ t, execAll (.acqConv .int 3 :: [.sysWait .fg] ++ [.acqConv .int 3]) (converting 0 0) = .next t
      ∧ true = true :=
  exists_next (by decide)

theorem test_witness_AcqInitAndShutdownAreIdempotent :
    after (execAll [.acqInit .fg 200, .acqInit .int 200] live) (fun _ => true) = true
      ∧ after (execAll [.acqShutdown .fg, .acqShutdown .fg] live) (fun _ => true) = true
      ∧ after (execAll [.acqInit .fg 200, .acqPeriod .int, .acqInit .fg 200] live) (fun _ => true) = true
      ∧ after (execAll [.acqShutdown .fg, .acqInit .fg 200] live) (fun _ => true) = true := by decide

/-- A frequency of the square root of 2, and its alias. -/
theorem test_witness_ExactCoefficientIsTwiceTheCosine :
    0 < 200 ∧ (exactSub (.ofRat 200) sqrtTwo).toReal = (200 : Nat) - sqrtTwo.toReal := by
  refine ⟨by decide, ?_⟩
  rw [toReal_exactSub, toReal_ofRat]
  norm_num

/-- Both ends of the sample's range; the last feed of a window, and one too many. -/
theorem test_witness_SpeFeedAdvancesTheFilter :
    let s := live.withSpe (speOn 0 0 (-10) 3)
    fgReady s ∧ -(2 : Int) ^ (s.cfg.accBits - 2 - 1) ≤ (-8192 : Word).toInt
      ∧ (-8192 : Word).toInt < (2 : Int) ^ (s.cfg.accBits - 2 - 1)
      ∧ -(2 : Int) ^ (s.cfg.accBits - 2 - 1) ≤ (8191 : Word).toInt
      ∧ (8191 : Word).toInt < (2 : Int) ^ (s.cfg.accBits - 2 - 1)
      ∧ s.spe.coeff = .written (.ofRat 0) ∧ s.spe.n = .written 4 ∧ s.spe.s1 = .written (.ofRat 0)
      ∧ s.spe.s2 = .written (.ofRat (-10))
      ∧ s.spe.cnt = .written 3 ∧ 3 < 4 ∧ 4 ≤ 4 ∧ (speOn 0 0 (-10) 4).cnt = .written 4 := by decide

theorem test_witness_SpeResetZeroesAndGetResultReads :
    fgReady live ∧ live.spe.result = .written (.ofRat 100) ∧ fgReady State.reset
      ∧ State.reset.spe.result = .unwritten := by decide

/-- The samples of V-SPE-1: a whole window; and a part of one. Both ends of the samples' range. -/
theorem test_witness_WindowPowerIsTheFourierMagnitude :
    (fgReady live ∧ live.cfg.num = .exact ∧ [(5 : Word), 0, -5, 0].length = 2 ^ live.cfg.m
        ∧ [(-8192 : Word), 8191].length ≤ 2 ^ live.cfg.m)
      ∧ (∀ x ∈ [(5 : Word), 0, -5, 0, -8192, 8191], -(2 : Int) ^ (live.cfg.accBits - 3) ≤ x.toInt
        ∧ x.toInt < (2 : Int) ^ (live.cfg.accBits - 3)) := by
  refine ⟨by decide, fun x hx => ?_⟩
  simp only [List.mem_cons, List.not_mem_nil, or_false] at hx
  rcases hx with rfl | rfl | rfl | rfl | rfl | rfl <;> decide

/-- The samples `3*cos(2*pi*k*j/4 + pi/4)`, at the phase of an eighth of a turn: at a quarter of the sample rate
(`k = 1`, in the band), at 0 and at a half (`k = 0` and `k = 2`, its ends), and `k' = 0` off `k = 1`. -/
theorem test_witness_SinusoidPowerIsThatOfItsBin :
    let xs (k : Rat) : List RealNum :=
      [0, 1, 2, 3].map fun j => .cosines ⟨0, [⟨k * j / 4 + 1 / 8, 3⟩]⟩
    (0 < live.cfg.fs
        ∧ (RealNum.ofRat 50).toReal = (1 : Int) * live.cfg.fs / 2 ^ live.cfg.m
        ∧ (RealNum.ofRat 100).toReal = (2 : Int) * live.cfg.fs / 2 ^ live.cfg.m)
      ∧ (∀ k : Int, (xs k).length = 2 ^ live.cfg.m ∧ ∀ j : Fin (xs k).length, ((xs k).get j).toReal
        = 3 * Real.cos (2 * Real.pi * k * (j : Nat) / 2 ^ live.cfg.m + Real.pi / 4))
      ∧ ((0 : Int) < 1 ∧ 2 * (1 : Int) < 2 ^ live.cfg.m ∧ 2 * (2 : Int) = 2 ^ live.cfg.m
        ∧ ¬ (2 : Int) ^ live.cfg.m ∣ 0 - 1 ∧ ¬ (2 : Int) ^ live.cfg.m ∣ 0 + 1) := by
  refine ⟨⟨by decide, ?_, ?_⟩, fun k => ⟨rfl, fun j => ?_⟩, by decide⟩
  · rw [toReal_ofRat]; norm_num [live, Config.toy]
  · rw [toReal_ofRat]; norm_num [live, Config.toy]
  · obtain ⟨j, hj⟩ := j
    change j < 4 at hj
    have h : ∀ q : Rat, RealNum.toReal (.cosines ⟨0, [⟨q, 3⟩]⟩) = 3 * Real.cos (2 * Real.pi * q) := by
      intro q
      simp [toReal_eq]
    interval_cases j <;> refine (h _).trans ?_ <;> congr 2 <;> norm_num [live, Config.toy] <;> ring

theorem test_witness_ReferenceInstanceComputesInTheReals :
    let s := live.withSpe (speOn 1 5 3 3)
    (s.cfg.num = .exact ∧ s.spe.coeff = .written (.ofRat 1) ∧ s.spe.s1 = .written (.ofRat 5)
        ∧ s.spe.s2 = .written (.ofRat 3) ∧ s.spe.n = .written 4 ∧ s.spe.cnt = .written 3
        ∧ after (exec (.speFeed .fg 4) s) (fun _ => true) = true)
      ∧ (s.csm.above = .written 3 ∧ s.csm.below = .written 0 ∧ s.csm.rd = .written .closed
        ∧ after (exec (process 30 40 30 2 1) s) (fun _ => true) = true
        ∧ after (exec (process 31 40 30 2 1) s) (fun _ => true) = true)
      ∧ (let o := live.withCsm (csmOn .auto .opened 3 0 3)
        o.cfg.num = .exact ∧ o.csm.above = .written 3 ∧ o.csm.below = .written 0
          ∧ o.csm.rd = .written .opened
          ∧ after (exec (process 31 31 30 2 1) o) (fun _ => true) = true
          ∧ after (exec (process 30 31 30 2 1) o) (fun _ => true) = true)
      ∧ (RealNum.ofRat 30).toReal ≤ (RealNum.ofRat 30).toReal
      ∧ (RealNum.ofRat 30).toReal < (RealNum.ofRat 31).toReal := by
  refine ⟨by decide, by decide, by decide, le_refl _, ?_⟩
  rw [toReal_ofRat, toReal_ofRat]
  norm_num

theorem test_witness_ZeroSignalGivesZeroPower :
    (fgReady live ∧ live.spe.coeff = .written (.ofRat 0) ∧ live.spe.n = .written (2 ^ live.cfg.m)
        ∧ 4 ≤ 2 ^ live.cfg.m)
      ∧ numOf live.cfg = exactNum
      ∧ exactNum.ofInt 0 = exactNum.zero ∧ (∀ a, exactNum.mul a exactNum.zero = exactNum.zero)
      ∧ exactNum.add exactNum.zero exactNum.zero = exactNum.zero
      ∧ exactNum.sub exactNum.zero exactNum.zero = exactNum.zero :=
  ⟨by decide, rfl, by decide, exactMul_zero, by decide, by decide⟩

/-- A feed that completes a window; and a window of the samples of V-SPE-1 at a quarter of the sample rate, whose
sine is not zero. -/
theorem test_witness_FinalisedPowerIsNonNegativeAndBounded :
    let s := live.withSpe (speOn 1 5 3 3)
    (s.cfg.num = .exact ∧ s.spe.coeff = .written (.ofRat 1) ∧ s.spe.cnt = .written 3
        ∧ s.spe.n = .written (3 + 1))
      ∧ |(RealNum.ofRat 1).toReal| ≤ 2
      ∧ (∃ t, exec (.speFeed .fg 4) s = .next t ∧ (t.spe.result == .written (.ofRat 31)) = true)
      ∧ (fgReady live ∧ live.cfg.num = .exact ∧ [(5 : Word), 0, -5, 0].length = 2 ^ live.cfg.m)
      ∧ ((exactCoeff (.ofRat 50) 200).toReal = 2 * Real.cos (Real.pi / 2) ∧ Real.sin (Real.pi / 2) ≠ 0) := by
  refine ⟨by decide, ?_, exists_next (by decide), by decide, ?_, by simp⟩
  · rw [toReal_ofRat]
    norm_num
  · rw [show exactCoeff (.ofRat 50) 200 = .ofRat 0 by decide, toReal_ofRat]
    simp

theorem test_witness_OnlyACompletedWindowWritesTheResult :
    ((∃ t, exec (.speFeed .fg 4) (live.withSpe (speOn 1 5 3 3)) = .next t
        ∧ decide (t.spe.result ≠ (speOn 1 5 3 3).result) = true)
      ∧ ∀ c, Instr.speFeed .fg 4 ≠ .sysRestart c)
      ∧ ∃ t, exec (.speReset .fg) live = .next t
        ∧ decide (t.spe.cnt = .written 0 ∧ live.spe.cnt ≠ .written 0) = true :=
  ⟨⟨exists_next (by decide), by simp⟩, exists_next (by decide)⟩

theorem test_witness_CsmInitStartsOpen :
    fgReady live ∧ (0 : Word).toNat = modeCode .off ∧ (1 : Word).toNat = modeCode .on
      ∧ (2 : Word).toNat = modeCode .auto := by decide

theorem test_witness_CsmProcessRunsOneBranch :
    fgReady live ∧ (0 : Word).toNat < 2 ^ live.cfg.cntBits ∧ (255 : Word).toNat < 2 ^ live.cfg.cntBits
      ∧ live.csm.rd = .written .closed ∧ (csmOn .auto .opened 255 0 0).rd = .written .opened
      ∧ live.csm.above = .written 3 ∧ live.csm.below = .written 0 := by decide

theorem test_witness_HysteresisBandChangesNoDecision :
    ((numOf live.cfg).le (.ofRat 40) (.ofRat 39) = false ∧ (numOf live.cfg).le (.ofRat 39) (.ofRat 30) = false)
      ∧ ∃ t, exec (process 39 40 30 2 1) live = .next t ∧ true = true :=
  ⟨by decide, exists_next (by decide)⟩

/-- The largest delay, and as many calls as close; the same for opening. -/
theorem test_witness_DebounceTakesDelayPlusOneWindows :
    (fgReady live ∧ (254 : Word).toNat < 2 ^ live.cfg.cntBits - 1 ∧ (255 : Word).toNat < 2 ^ live.cfg.cntBits)
      ∧ ((csmOn .auto .opened 0 7 0).rd = .written .opened ∧ (csmOn .auto .opened 0 7 0).above = .written 0
        ∧ (csmOn .auto .opened 0 7 0).below = .written 7 ∧ (∀ p ∈ [RealNum.ofRat 50, .ofRat 40],
          (numOf live.cfg).le (.ofRat 40) p = true) ∧ [RealNum.ofRat 50, .ofRat 40].length ≤ (2 : Word).toNat + 1)
      ∧ (live.csm.rd = .written .closed ∧ live.csm.below = .written 0 ∧ live.csm.above = .written 3
        ∧ (∀ p ∈ [RealNum.ofRat 20, .ofRat 30], (numOf live.cfg).le p (.ofRat 30) = true)
        ∧ [RealNum.ofRat 20, .ofRat 30].length ≤ (1 : Word).toNat + 1) := by decide

theorem test_witness_RunningCounterStaysInsideItsDelay :
    ((254 : Word).toNat < 2 ^ live.cfg.cntBits - 1
        ∧ ∃ t, exec (process 20 40 30 254 1) live = .next t ∧ true = true)
      ∧ (∀ c p h l x y, process 20 40 30 254 1 = .csmProcess c p h l x y → x = 254 ∧ y = 1)
      ∧ CountersInside 254 1 live := by
  refine ⟨⟨by decide, exists_next (by decide)⟩, ?_, ?_⟩
  · rintro c p h l x y ⟨⟩
    exact ⟨rfl, rfl⟩
  · simp [CountersInside, live, csmOn]

theorem test_witness_ButtonPushesAndTicksMoveModeAndPhase :
    fgReady live ∧ live.csm.mode = .written .auto ∧ live.csm.blink = .written 3 ∧ fgReady State.reset
      ∧ State.reset.csm.blink = .unwritten := by decide

theorem test_witness_OutputsFollowModeDecisionAndPhase :
    live.csm.mode = .written .auto ∧ live.csm.rd = .written .closed ∧ live.csm.blink = .written 3 := by decide

theorem test_witness_ModeTransitionTable :
    (live.csm.mode = .written .auto ∧ live.csm.rd = .written .closed)
      ∧ (∃ t, exec (.csmShort .fg) live = .next t ∧ true = true)
      ∧ ∃ t, exec (.csmLong .fg) live = .next t ∧ true = true :=
  ⟨by decide, exists_next (by decide), exists_next (by decide)⟩

theorem test_witness_WhoWritesTheControlState :
    (∃ t, exec (process 20 40 30 2 1) live = .next t ∧ decide (t.csm.below ≠ live.csm.below) = true)
      ∧ (∃ t, exec (.csmLong .fg) live = .next t
        ∧ decide (t.csm.mode ≠ live.csm.mode ∧ t.csm.blink ≠ live.csm.blink) = true)
      ∧ (∀ c, Instr.csmLong .fg ≠ .sysRestart c) ∧ ∀ c m, Instr.csmLong .fg ≠ .csmInit c m :=
  ⟨exists_next (by decide), exists_next (by decide), by simp, by simp⟩

theorem test_witness_ModeOperationsCommuteWithProcess :
    after (execAll [.csmLong .fg, process 20 40 30 2 1] live) (fun _ => true) = true
      ∧ after (execAll [process 20 40 30 2 1, .csmTick .fg] live) (fun _ => true) = true := by decide

theorem test_witness_PstGetReturnsTheStoredValue :
    fgReady live ∧ (4 : Word).toNat < live.cfg.schema.length ∧ live.cfg.schema.length ≤ (5 : Word).toNat := by
  decide

/-- The entry HIGH at both bounds and just outside them, and the first index outside the table. -/
theorem test_witness_PstSetChecksThenStores :
    fgReady stopped ∧ stopped.acq.run = false ∧ stopped.cfg.schema[(5 : Word).toNat]? = none
      ∧ stopped.cfg.schema[(0 : Word).toNat]? = some ⟨"HIGH", 1, 1000, 40⟩
      ∧ stopped.cfg.pvalSigned = false
      ∧ (1000 : Int) < (1001 : Word).toNat ∧ ((0 : Word).toNat : Int) < 1
      ∧ (1 : Int) ≤ (1 : Word).toNat ∧ ((1000 : Word).toNat : Int) ≤ 1000 := by decide

theorem test_witness_SetThenGetReturnsTheValue :
    (Memory.wf stopped.nvm = true ∧ storable stopped.cfg (valueOperand stopped.cfg 1000) = true)
      ∧ (after (exec (.pstSet .fg 0 1000) stopped) fun t => decide (lastStatus t = some .ok)
        && after (exec (.pstGet .fg 4) t) fun _ => true) = true
      ∧ (4 : Word) ≠ 0
      ∧ after (exec (.pstGet .fg 4) stopped) (fun u => decide (lastStatus u = some .ok)) = true := by decide

theorem test_witness_PstGetRangeReturnsTheBounds :
    fgReady live ∧ live.cfg.schema[(4 : Word).toNat]? = some ⟨"MODE", 0, 2, 2⟩
      ∧ live.cfg.schema.length ≤ (5 : Word).toNat := by decide

theorem test_witness_PstInitComparesTheChecksum :
    fgReady stopped ∧ stopped.acq.run = false ∧ stopped.cfg.schema[0]? = some ⟨"HIGH", 1, 1000, 40⟩
      ∧ readLE stopped.nvm 0 2 = (expectedChecksum stopped.cfg).toNat
      ∧ readLE State.reset.nvm 0 2 ≠ (expectedChecksum State.reset.cfg).toNat := by decide

/-- `ResetAllWritesEveryDefault` and `InitNeverRetriggersAReset`. -/
theorem test_witness_ResetAllWritesEveryDefault :
    fgReady stopped ∧ stopped.acq.run = false ∧ Memory.wf stopped.nvm = true
      ∧ stopped.cfg.schema[(4 : Word).toNat]? = some ⟨"MODE", 0, 2, 2⟩ ∧ storable stopped.cfg 2 = true := by
  decide

theorem test_witness_InitNeverRetriggersAReset :
    fgReady State.reset ∧ State.reset.acq.run = false ∧ Memory.wf State.reset.nvm = true := by decide

/-- Cut right after the first write, and right before the checksum's. -/
theorem test_witness_CutStoreResetLeavesTheChecksum :
    Memory.wf State.reset.nvm = true
      ∧ (after (exec (.pstInit .fg) State.reset) fun t =>
        after (storeSteps 0 t) fun u => decide (u.job = some ⟨1, true⟩)) = true
      ∧ (after (exec (.pstResetAll .fg) State.reset) fun t =>
        after (storeSteps 4 t) fun u => decide (u.job = some ⟨5, false⟩)) = true
      ∧ readLE State.reset.nvm 0 2 ≠ (expectedChecksum State.reset.cfg).toNat := by decide

theorem test_witness_StoreWritersNeedAcquisitionStopped :
    fgReady live ∧ live.acq.run = true ∧ after (exec (.pstGet .fg 0) live) (fun _ => true) = true
      ∧ after (step (live.withPending [.record (encode (.pstGet .fg 0))])) (fun _ => true) = true := by decide

theorem test_witness_OnlyTheStoreWritesItsMemory :
    (∃ t, exec (.sysRestart .int) live = .next t ∧ true = true)
      ∧ ∀ c, Instr.sysRestart .int ≠ .pstInit c ∧ Instr.sysRestart .int ≠ .pstResetAll c
        ∧ ∀ x v, Instr.sysRestart .int ≠ .pstSet c x v :=
  ⟨exists_next (by decide), by simp⟩

theorem test_witness_RestartResetsAllButTheMemory : Machine.wellFormed (converting 45 15).cfg = true := by
  decide

/-- From a running machine with TOY's store, and from one whose store must be reset. -/
theorem test_witness_RestartBootsTheForeground :
    after (exec (.sysRestart .int) live) (fun _ => true) = true ∧ Memory.wf live.nvm = true
      ∧ after (exec (.sysRestart .fg) State.reset) (fun _ => true) = true ∧ Memory.wf State.reset.nvm = true
      ∧ live.cfg.idxFreq < 2 ^ 32 ∧ live.cfg.idxMode < 2 ^ 32 ∧ live.cfg.fs < 2 ^ 32
      ∧ readLE live.nvm 0 2 = (expectedChecksum live.cfg).toNat := by decide

/-- A restart; and the state of V-SPE-27, between `SPE.INIT` and `SPE.RESET`. -/
theorem test_witness_TooEarlyOperationsAreRefused :
    (∃ t, exec (.sysRestart .fg) live = .next t
        ∧ decide (inSigned (dsBits t.cfg) (-8192 : Word).toInt = true ∧ (255 : Word).toNat < 2 ^ t.cfg.cntBits)
          = true)
      ∧ (0 < (1 : Word).toNat ∧ (3 : Word).toNat < 4)
      ∧ (after (exec (.speInit .fg (.ofRat 50)) State.reset) fun t => decide (fgReady t
        ∧ inSigned (dsBits t.cfg) (1 : Word).toInt = true ∧ t.spe.coeff.isWritten = true
        ∧ t.spe.s1 = .unwritten ∧ t.csm.rd = .unwritten ∧ t.csm.mode = .unwritten)) = true :=
  ⟨exists_next (by decide), by decide, by decide⟩

theorem test_witness_OperationsKeepToTheirUnit :
    after (exec (.acqTake .fg 3) live) (fun _ => true) = true
      ∧ after (exec (.acqConv .int 3) (converting 0 0)) (fun _ => true) = true
      ∧ after (exec (.speFeed .fg 3) live) (fun _ => true) = true
      ∧ after (exec (process 20 40 30 2 1) live) (fun _ => true) = true
      ∧ after (exec (.pstSet .fg 0 1000) stopped) (fun _ => true) = true
      ∧ after (exec (.pstGet .fg 0) live) (fun _ => true) = true
      ∧ after (exec (.sysWait .fg) live) (fun _ => true) = true
      ∧ after (exec (.sysSerial .int) live) (fun _ => true) = true
      ∧ after (exec (.pstResetAll .fg) stopped) (fun _ => true) = true
      ∧ after (exec (.sysRestart .fg) live) (fun _ => true) = true := by decide

/-- P6's excursion, from a partial group and a partial window. -/
theorem test_witness_ExcursionLeavesNoHalfFormedWindow :
    ∃ t, execAll (excursionOps live.cfg
        [.getRange 1, .get 1, .set 1 0, .set 0 2000, .set 3 60, .get 3])
        ((live.withAcq (acqRunning true true 35 7 false false)).withSpe (speOn 0 0 20 2)) = .next t
      ∧ (t.spe == speOn 0 0 0 0 && t.acq == acqRunning false false 0 0 false false) = true :=
  exists_next (by decide)

theorem test_witness_EveryStepKeepsTheStateLegal :
    Legal (State.reset.withPending [.record (encode (.pstInit .fg))])
      ∧ ∃ t, step (State.reset.withPending [.record (encode (.pstInit .fg))]) = .next t ∧ true = true := by
  refine ⟨⟨by decide, ⟨?_, ?_, ?_, ?_, ?_, ?_, ?_, ?_⟩, ⟨?_, ?_, ?_, ?_⟩, ⟨?_, ?_, ?_, ?_⟩,
    ⟨by decide, by decide⟩, ?_⟩, exists_next (by decide)⟩ <;>
    simp [State.withPending, State.reset, Acq.reset, Spe.reset, Csm.reset, Element.isWritten, JobLegal]

end Sys2Proof.Tests
end

section
/-! The configuration comes before every meaning (R10): an ill-formed one is refused by every guard, so by every
operation, and no step leaves it. -/

namespace Sys2Proof.Machine

theorem foregroundOp_illFormed {s : State} (h : wellFormed s.cfg = false) (ctx : Ctx) (body : Result) :
    foregroundOp ctx s body = .refused .illFormedConfiguration :=
  if_pos h

theorem foregroundEvent_illFormed {s : State} (h : wellFormed s.cfg = false) (ctx : Ctx) (body : Result) :
    foregroundEvent ctx s body = .refused .illFormedConfiguration :=
  if_pos h

theorem interruptOp_illFormed {s : State} (h : wellFormed s.cfg = false) (ctx : Ctx) (body : Result) :
    interruptOp ctx s body = .refused .illFormedConfiguration :=
  if_pos h

theorem eitherOp_illFormed {s : State} (h : wellFormed s.cfg = false) (ctx : Ctx) (body : Result) :
    eitherOp ctx s body = .refused .illFormedConfiguration :=
  if_pos h

theorem anyOp_illFormed {s : State} (h : wellFormed s.cfg = false) (body : Result) :
    anyOp s body = .refused .illFormedConfiguration :=
  if_pos h

/-- Every meaning begins with one of the five guards, and each guard tests the configuration first. -/
theorem exec_illFormed {s : State} (h : wellFormed s.cfg = false) (i : Instr) :
    exec i s = .refused .illFormedConfiguration := by
  cases i with
  | acqInit | acqShutdown => exact eitherOp_illFormed h _ _
  | acqPeriod | acqConv | sysSerial => exact interruptOp_illFormed h _ _
  | csmShort | csmLong => exact foregroundEvent_illFormed h _ _
  | sysRestart => exact anyOp_illFormed h _
  | acqTake | speInit | speFeed | speReset | speGetResult | csmInit | csmProcess | csmTick | pstInit
  | pstResetAll | pstGet | pstSet | pstGetRange | sysWait | sysWdkick =>
    exact foregroundOp_illFormed h _ _

theorem exec_next_wellFormed {i : Instr} {s t : State} (h : exec i s = .next t) : wellFormed s.cfg = true := by
  by_contra hc
  rw [exec_illFormed (Bool.eq_false_iff.2 hc)] at h
  cases h

/-- Only an illegal code is answered (R86), and only in a well-formed configuration. -/
theorem reject_next_wellFormed {s t : State} {e : DecodeError} (h : reject s e = .next t) :
    wellFormed s.cfg = true := by
  cases e with
  | illegalCommand code =>
    cases hc : wellFormed s.cfg with
    | true => rfl
    | false => simp [reject, hc] at h
  | fieldKind | truncated | noRecord => cases h

/-- Whatever a step finds, it goes on only in a well-formed configuration. -/
theorem step_next_wellFormed {s t : State} (h : step s = .next t) : wellFormed s.cfg = true := by
  unfold step at h
  split at h
  · cases h
  · exact (continueStore_next.1 h).1
  · next rest _ =>
    split at h
    · exact exec_next_wellFormed (s := s.withPending rest) h
    · exact reject_next_wellFormed (s := s.withPending rest) h

/-- Settles O9: by the guards for the operations, and for a step since it goes on in a well-formed configuration
only. -/
theorem illFormedConfigurationHasNoStep : Obligations.IllFormedConfigurationHasNoStep := by
  intro s h
  refine ⟨exec_illFormed h, fun t ht => ?_⟩
  rw [step_next_wellFormed ht] at h
  cases h

end Sys2Proof.Machine
end

section
/-! The exact instance computes in the real numbers (R15, R121): what a feed and a decision leave, first in any
instance, then through the laws of the exact one. -/

namespace Sys2Proof.Machine

theorem numOf_of_exact {c : Config} (h : c.num = .exact) : numOf c = exactNum := by
  rw [numOf, h]

/-- A feed over written elements leaves the elements of R123. -/
theorem spe_of_speFeed {ctx : Ctx} {x : Word} {s t : State} {c s1 s2 : RealNum} {n k : Nat}
    (hc : s.spe.coeff = .written c) (h1 : s.spe.s1 = .written s1) (h2 : s.spe.s2 = .written s2)
    (hn : s.spe.n = .written n) (hk : s.spe.cnt = .written k) (h : exec (.speFeed ctx x) s = .next t) :
    t.spe = fed s.cfg s.spe c s1 s2 k n x.toInt := by
  obtain ⟨-, -, -, -, -, c', n', s1', s2', k', hc', hn', h1', h2', hk', -, rfl⟩ := exec_speFeed_next h
  cases hc.symm.trans hc'
  cases h1.symm.trans h1'
  cases h2.symm.trans h2'
  cases hn.symm.trans hn'
  cases hk.symm.trans hk'
  rfl

theorem fed_s1 (c : Config) (p : Spe) (coeff s1 s2 : RealNum) (k n : Nat) (x : Int) :
    (fed c p coeff s1 s2 k n x).s1 = .written (filterState (numOf c) coeff s1 s2 ((numOf c).ofInt x)) :=
  rfl

/-- The feed that completes the window finalises the power. -/
theorem fed_result_of_last (c : Config) (p : Spe) (coeff s1 s2 : RealNum) {k n : Nat} (x : Int) (h : k + 1 = n) :
    (fed c p coeff s1 s2 k n x).result = .written (finalPower (numOf c) c.kappa coeff
      (filterState (numOf c) coeff s1 s2 ((numOf c).ofInt x)) s1) :=
  if_pos h

/-- `CSM.PROCESS` of an open relay leaves what the Open branch of R142 does. -/
theorem csm_of_process_opened {ctx : Ctx} {p hi lo : RealNum} {on off : Word} {s t : State} {a : Nat}
    (hrd : s.csm.rd = .written .opened) (ha : s.csm.above = .written a)
    (h : exec (.csmProcess ctx p hi lo on off) s = .next t) :
    t.csm = processOpen s.cfg s.csm p hi a on.toNat := by
  obtain ⟨-, -, -, -, -, -, rd, a', b', hrd', ha', -, rfl⟩ := exec_csmProcess_next h
  cases hrd.symm.trans hrd'
  cases ha.symm.trans ha'
  rfl

/-- `CSM.PROCESS` of a closed relay leaves what the Closed branch of R142 does. -/
theorem csm_of_process_closed {ctx : Ctx} {p hi lo : RealNum} {on off : Word} {s t : State} {b : Nat}
    (hrd : s.csm.rd = .written .closed) (hb : s.csm.below = .written b)
    (h : exec (.csmProcess ctx p hi lo on off) s = .next t) :
    t.csm = processClosed s.cfg s.csm p lo b off.toNat := by
  obtain ⟨-, -, -, -, -, -, rd, a', b', hrd', -, hb', rfl⟩ := exec_csmProcess_next h
  cases hrd.symm.trans hrd'
  cases hb.symm.trans hb'
  rfl

/-- At or above the high threshold the Open branch counts, whether or not it closes the relay. -/
theorem processOpen_above_of_le {c : Config} {p hi : RealNum} (k : Csm) (a d : Nat)
    (h : (numOf c).le hi p = true) : (processOpen c k p hi a d).above = .written (incCounter c a) := by
  rw [processOpen, if_pos h]
  split <;> rfl

/-- Below the high threshold the Open branch touches its counter at most. -/
theorem processOpen_of_miss {c : Config} {p hi : RealNum} {k : Csm} {a : Nat} (d : Nat)
    (h : (numOf c).le hi p = false) (ha : k.above = .written a) :
    processOpen c k p hi a d = { k with above := .written (if c.resetOnMiss then 0 else a) } := by
  rw [processOpen, if_neg (Bool.eq_false_iff.1 h)]
  split
  · rfl
  · rw [← ha]

/-- At or below the low threshold the Closed branch counts, whether or not it opens the relay. -/
theorem processClosed_below_of_le {c : Config} {p lo : RealNum} (k : Csm) (b d : Nat)
    (h : (numOf c).le p lo = true) : (processClosed c k p lo b d).below = .written (incCounter c b) := by
  rw [processClosed, if_pos h]
  split <;> rfl

/-- Above the low threshold the Closed branch touches its counter at most. -/
theorem processClosed_of_miss {c : Config} {p lo : RealNum} {k : Csm} {b : Nat} (d : Nat)
    (h : (numOf c).le p lo = false) (hb : k.below = .written b) :
    processClosed c k p lo b d = { k with below := .written (if c.resetOnMiss then 0 else b) } := by
  rw [processClosed, if_neg (Bool.eq_false_iff.1 h)]
  split
  · rfl
  · rw [← hb]

/-- In the exact instance a comparison holds as in the real numbers, and fails as in them. -/
theorem numOf_le_of_exact {c : Config} (hc : c.num = .exact) {x y : RealNum} :
    (numOf c).le x y = true ↔ x.toReal ≤ y.toReal := by
  rw [numOf_of_exact hc, exactNum_le]

theorem numOf_le_false_of_exact {c : Config} (hc : c.num = .exact) {x y : RealNum} :
    (numOf c).le x y = false ↔ y.toReal < x.toReal := by
  rw [← Bool.not_eq_true, numOf_le_of_exact hc, not_le]

/-- R123 in the real numbers: the filter state of a feed, and the power when the feed completes the window. -/
theorem speFeed_toReal {ctx : Ctx} {x : Word} {s t : State} {c s1 s2 : RealNum} {n k : Nat}
    (he : s.cfg.num = .exact) (hc : s.spe.coeff = .written c) (h1 : s.spe.s1 = .written s1)
    (h2 : s.spe.s2 = .written s2) (hn : s.spe.n = .written n) (hk : s.spe.cnt = .written k)
    (h : exec (.speFeed ctx x) s = .next t) :
    ∃ s0, t.spe.s1 = .written s0 ∧ s0.toReal = x.toInt + c.toReal * s1.toReal - s2.toReal
      ∧ (k + 1 = n → ∃ r, t.spe.result = .written r ∧ r.toReal = s.cfg.kappa.toReal
        * (s0.toReal * s0.toReal + s1.toReal * s1.toReal - c.toReal * s0.toReal * s1.toReal)) := by
  rw [spe_of_speFeed hc h1 h2 hn hk h]
  refine ⟨_, fed_s1 .., ?_, fun hlast => ⟨_, fed_result_of_last _ _ _ _ _ _ hlast, ?_⟩⟩
  · rw [numOf_of_exact he, toReal_filterState, toReal_ofInt]
  · rw [numOf_of_exact he, toReal_finalPower]

/-- Settles O27: the functions are those of `Laws/Real.lean`, a feed computes with them, and each branch of
`CSM.PROCESS` counts or misses by the order of the real numbers. -/
theorem referenceInstanceComputesInTheReals : Obligations.ReferenceInstanceComputesInTheReals := by
  refine ⟨⟨?_, toReal_ofInt, fun x y => ⟨toReal_exactAdd x y, toReal_exactSub x y, toReal_exactMul x y,
    exactNum_le⟩⟩, fun s t he => ⟨fun x c s1 s2 n k => speFeed_toReal he, ?_⟩⟩
  · exact (toReal_ofRat 0).trans Rat.cast_zero
  intro p h l on off a b ha hb hstep
  refine ⟨fun hrd hle => ?_, fun hrd hlt => ?_, fun hrd hle => ?_, fun hrd hlt => ?_⟩
  · rw [csm_of_process_opened hrd ha hstep]
    exact processOpen_above_of_le _ _ _ ((numOf_le_of_exact he).2 hle)
  · rw [csm_of_process_opened hrd ha hstep,
      processOpen_of_miss _ ((numOf_le_false_of_exact he).2 hlt) ha]
    exact ⟨hrd, rfl⟩
  · rw [csm_of_process_closed hrd hb hstep]
    exact processClosed_below_of_le _ _ _ ((numOf_le_of_exact he).2 hle)
  · rw [csm_of_process_closed hrd hb hstep,
      processClosed_of_miss _ ((numOf_le_false_of_exact he).2 hlt) hb]
    exact ⟨hrd, rfl⟩

end Sys2Proof.Machine
end

section
/-! The elements at reset (R45) are legal in every configuration: no control bit is set, all else is unwritten. -/

namespace Sys2Proof.Machine

theorem acqLegal_reset (c : Config) : AcqLegal c Acq.reset where
  running := nofun
  frontEnd := nofun
  busy := nofun
  sumOfSamples := nofun
  valueFits := nofun
  flagged := nofun
  prescaler := nofun
  compare := nofun

theorem speLegal_reset (c : Config) : SpeLegal c Spe.reset where
  length := nofun
  counter := nofun
  initTogether := rfl
  resetTogether := ⟨rfl, rfl⟩

theorem csmLegal_reset (c : Config) : CsmLegal c Csm.reset where
  together := ⟨rfl, rfl, rfl, rfl⟩
  above := nofun
  below := nofun
  blink := nofun

theorem toy_wellFormed : wellFormed Config.toy = true := by decide

/-- Settles O60: TOY is well formed, every block is as it is at reset, the memory lists nothing, and no store
reset is in progress. -/
theorem resetIsLegal : Obligations.ResetIsLegal where
  config := toy_wellFormed
  acq := acqLegal_reset _
  spe := speLegal_reset _
  csm := csmLegal_reset _
  store := ⟨reset_memory_wf, rfl⟩
  job := nofun

end Sys2Proof.Machine
end

section
/-! The frame of the operations: which block each of them may write (R20, column "written by"), and that it
leaves the others alone. -/

namespace Sys2Proof.Machine

/-- The operations that write elements of ACQ; `SYS.WAIT` starts a conversion (R181). -/
def writesAcq : Instr → Bool
  | .acqInit _ _ | .acqShutdown _ | .acqPeriod _ | .acqConv _ _ | .acqTake _ _ | .sysWait _
  | .sysRestart _ => true
  | _ => false

/-- The operations that write elements of SPE. -/
def writesSpe : Instr → Bool
  | .speInit _ _ | .speFeed _ _ | .speReset _ | .sysRestart _ => true
  | _ => false

/-- The operations that write elements of CSM. -/
def writesCsm : Instr → Bool
  | .csmInit _ _ | .csmProcess _ _ _ _ _ _ | .csmShort _ | .csmLong _ | .csmTick _ | .sysRestart _ => true
  | _ => false

/-- The operations that write the store (R66). -/
def writesStore : Instr → Bool
  | .pstInit _ | .pstResetAll _ | .pstSet _ _ _ => true
  | _ => false

/-- What an operation leaves unchanged. Only an operation that writes the store begins a store reset, and only
one that finds none in progress puts the foreground to sleep. -/
structure ExecFrame (i : Instr) (s t : State) : Prop where
  cfg : t.cfg = s.cfg
  acq : writesAcq i = false → t.acq = s.acq
  spe : writesSpe i = false → t.spe = s.spe
  csm : writesCsm i = false → t.csm = s.csm
  nvm : writesStore i = false → t.nvm = s.nvm
  job : writesStore i = false → t.job = none ∨ t.job = s.job ∧ (s.asleep = false → t.asleep = false)

theorem ExecFrame.refl (i : Instr) (s : State) : ExecFrame i s s :=
  ⟨rfl, fun _ => rfl, fun _ => rfl, fun _ => rfl, fun _ => rfl, fun _ => .inr ⟨rfl, id⟩⟩

variable {i : Instr} {s t : State}

theorem ExecFrame.withOut (h : ExecFrame i s t) (o : StepOutput) : ExecFrame i s (t.withOut o) :=
  ⟨h.cfg, h.acq, h.spe, h.csm, h.nvm, h.job⟩

theorem ExecFrame.wake (h : ExecFrame i s t) : ExecFrame i s t.wake :=
  ⟨h.cfg, h.acq, h.spe, h.csm, h.nvm, fun hw => (h.job hw).imp_right fun hj => ⟨hj.1, fun _ => rfl⟩⟩

theorem execFrame_withAcq (hw : writesAcq i = true) (a : Acq) : ExecFrame i s (s.withAcq a) :=
  { ExecFrame.refl i s with acq := fun h => by simp [hw] at h }

theorem execFrame_withSpe (hw : writesSpe i = true) (p : Spe) : ExecFrame i s (s.withSpe p) :=
  { ExecFrame.refl i s with spe := fun h => by simp [hw] at h }

theorem execFrame_withCsm (hw : writesCsm i = true) (k : Csm) : ExecFrame i s (s.withCsm k) :=
  { ExecFrame.refl i s with csm := fun h => by simp [hw] at h }

theorem execFrame_withNvm (hw : writesStore i = true) (m : Memory) : ExecFrame i s (s.withNvm m) :=
  { ExecFrame.refl i s with nvm := fun h => by simp [hw] at h }

theorem ExecFrame.withJob (h : ExecFrame i s t) (hw : writesStore i = true) (j : Option StoreJob) :
    ExecFrame i s (t.withJob j) :=
  ⟨h.cfg, h.acq, h.spe, h.csm, h.nvm, fun hn => by simp [hw] at hn⟩

theorem execFrame_raiseError {st : Status} (h : raiseError s st = .next t) : ExecFrame i s t := by
  rw [raiseError_next.1 h]
  exact (ExecFrame.refl i s).withOut _

theorem execFrame_storeStep {j : StoreJob} (hw : writesStore i = true) (h : storeStep j s = .next t) :
    ExecFrame i s t := by
  obtain ⟨_, -, -, rfl⟩ | ⟨-, -, rfl⟩ := storeStep_next h
  all_goals exact ((execFrame_withNvm hw _).withJob hw _).withOut _

/-- Every operation keeps the configuration (R23) and writes its own block only. -/
theorem exec_frame (h : exec i s = .next t) : ExecFrame i s t := by
  cases i with
  | acqInit =>
    obtain ⟨-, -, -, _, _, -, rfl⟩ := exec_acqInit_next h
    exact (execFrame_withAcq rfl _).withOut _
  | acqShutdown =>
    obtain ⟨-, -, rfl⟩ := exec_acqShutdown_next h
    exact (execFrame_withAcq rfl _).withOut _
  | acqPeriod =>
    obtain ⟨-, -, -, rfl⟩ := exec_acqPeriod_next h
    exact (execFrame_withAcq rfl _).wake.withOut _
  | acqConv =>
    obtain ⟨-, -, -, -, -, -, _, _, -, -, rfl⟩ := exec_acqConv_next h
    exact (execFrame_withAcq rfl _).wake.withOut _
  | acqTake =>
    obtain ⟨-, -, -, -, -, -, -, _, _, rfl⟩ := exec_acqTake_next h
    exact (execFrame_withAcq rfl _).withOut _
  | speInit =>
    obtain ⟨-, -, -, -, rfl⟩ := exec_speInit_next h
    exact (execFrame_withSpe rfl _).withOut _
  | speFeed =>
    obtain ⟨-, -, -, -, -, _, _, _, _, _, -, -, -, -, -, -, rfl⟩ := exec_speFeed_next h
    exact (execFrame_withSpe rfl _).withOut _
  | speReset =>
    obtain ⟨-, -, -, -, rfl⟩ := exec_speReset_next h
    exact (execFrame_withSpe rfl _).withOut _
  | speGetResult =>
    obtain ⟨-, -, -, -, _, -, rfl⟩ := exec_speGetResult_next h
    exact (ExecFrame.refl _ _).withOut _
  | csmInit =>
    obtain ⟨-, -, -, -, _, -, rfl⟩ := exec_csmInit_next h
    exact (execFrame_withCsm rfl _).withOut _
  | csmProcess =>
    obtain ⟨-, -, -, -, -, -, _, _, _, -, -, -, rfl⟩ := exec_csmProcess_next h
    exact (execFrame_withCsm rfl _).withOut _
  | csmShort =>
    obtain ⟨-, -, -, -, _, -, rfl⟩ := exec_csmShort_next h
    exact (execFrame_withCsm rfl _).withOut _
  | csmLong =>
    obtain ⟨-, -, -, -, _, -, rfl⟩ := exec_csmLong_next h
    exact (execFrame_withCsm rfl _).withOut _
  | csmTick =>
    obtain ⟨-, -, -, -, _, -, rfl⟩ := exec_csmTick_next h
    exact (execFrame_withCsm rfl _).withOut _
  | pstInit =>
    obtain ⟨-, -, -, -, -, ⟨-, rfl⟩ | ⟨-, hs⟩⟩ := exec_pstInit_next h
    · exact (ExecFrame.refl _ _).withOut _
    · exact execFrame_storeStep rfl hs
  | pstResetAll =>
    obtain ⟨-, -, -, -, -, hs⟩ := exec_pstResetAll_next h
    exact execFrame_storeStep rfl hs
  | pstGet =>
    obtain ⟨-, -, -, -, ⟨-, hr⟩ | ⟨-, -, rfl⟩⟩ := exec_pstGet_next h
    · exact execFrame_raiseError hr
    · exact (ExecFrame.refl _ _).withOut _
  | pstSet =>
    obtain ⟨-, -, -, -, -, ⟨_, -, hr⟩ | ⟨_, -, -, -, -, rfl⟩⟩ := exec_pstSet_next h
    · exact execFrame_raiseError hr
    · exact (execFrame_withNvm rfl _).withOut _
  | pstGetRange =>
    obtain ⟨-, -, -, -, ⟨-, hr⟩ | ⟨_, -, rfl⟩⟩ := exec_pstGetRange_next h
    · exact execFrame_raiseError hr
    · exact (ExecFrame.refl _ _).withOut _
  | sysWait =>
    obtain ⟨-, -, -, hj, rfl⟩ := exec_sysWait_next h
    exact ⟨rfl, nofun, fun _ => rfl, fun _ => rfl, fun _ => rfl, fun _ => .inl hj⟩
  | sysWdkick =>
    obtain ⟨-, -, -, -, rfl⟩ := exec_sysWdkick_next h
    exact (ExecFrame.refl _ _).withOut _
  | sysSerial =>
    obtain ⟨-, -, rfl⟩ := exec_sysSerial_next h
    exact (ExecFrame.refl _ _).wake.withOut _
  | sysRestart =>
    obtain ⟨-, rfl⟩ := exec_sysRestart_next h
    exact ⟨rfl, nofun, nofun, nofun, fun _ => rfl, fun _ => .inl rfl⟩

end Sys2Proof.Machine
end

section
/-! SPE under one operation (R31 to R33): what each writer leaves, and what follows for the result, the counter
and the legal values. -/

namespace Sys2Proof.Machine

/-- SPE before and after an operation (R122 to R124, R230). -/
inductive SpeStep (c : Config) (p : Spe) : Instr → Spe → Prop
  | kept (i : Instr) : SpeStep c p i p
  | init (ctx : Ctx) (f coeff : RealNum) :
    SpeStep c p (.speInit ctx f) { p with coeff := .written coeff, n := .written (windowLength c) }
  | feed (ctx : Ctx) (x : Word) {coeff s1 s2 : RealNum} {k n : Nat} (hn : p.n = .written n)
    (hk : p.cnt = .written k) (hlt : k < n) :
    SpeStep c p (.speFeed ctx x) (fed c p coeff s1 s2 k n x.toInt)
  | reset (ctx : Ctx) (s1 s2 : RealNum) :
    SpeStep c p (.speReset ctx) { p with s1 := .written s1, s2 := .written s2, cnt := .written 0 }
  | restart (ctx : Ctx) : SpeStep c p (.sysRestart ctx) Spe.reset

theorem exec_speStep {i : Instr} {s t : State} (h : exec i s = .next t) : SpeStep s.cfg s.spe i t.spe := by
  cases i with
  | speInit ctx f =>
    obtain ⟨-, -, -, -, rfl⟩ := exec_speInit_next h
    exact .init ctx f _
  | speFeed ctx x =>
    obtain ⟨-, -, -, -, -, _, _, _, _, _, -, hn, -, -, hk, hlt, rfl⟩ := exec_speFeed_next h
    exact .feed ctx x hn hk hlt
  | speReset ctx =>
    obtain ⟨-, -, -, -, rfl⟩ := exec_speReset_next h
    exact .reset ctx _ _
  | sysRestart ctx =>
    obtain ⟨-, rfl⟩ := exec_sysRestart_next h
    exact .restart ctx
  | _ =>
    rw [(exec_frame h).spe rfl]
    exact .kept _

variable {c : Config} {p p' : Spe} {i : Instr}

/-- A feed that does not complete the window keeps the result. -/
theorem fed_result_of_ne {coeff s1 s2 : RealNum} {k n : Nat} {x : Int} (h : k + 1 ≠ n) :
    (fed c p coeff s1 s2 k n x).result = p.result :=
  if_neg h

theorem SpeStep.result_changed (h : SpeStep c p i p') (hi : ∀ ctx, i ≠ .sysRestart ctx)
    (hne : p'.result ≠ p.result) :
    ∃ ctx x k, i = .speFeed ctx x ∧ p.cnt = .written k ∧ p.n = .written (k + 1) := by
  cases h with
  | kept | init | reset => exact absurd rfl hne
  | restart ctx => exact absurd rfl (hi ctx)
  | @feed ctx x _ _ _ k n hn hk hlt =>
    have hlast : k + 1 = n := not_imp_comm.1 fed_result_of_ne hne
    exact ⟨ctx, x, k, rfl, hk, hlast ▸ hn⟩

theorem SpeStep.counter_zeroed (h : SpeStep c p i p') (hz : p'.cnt = .written 0) (hne : p.cnt ≠ .written 0) :
    ∃ ctx, i = .speReset ctx := by
  cases h with
  | kept | init => exact absurd hz hne
  | feed => cases hz
  | reset ctx => exact ⟨ctx, rfl⟩
  | restart => cases hz

/-- Settles O30: by what each writer of SPE leaves. -/
theorem onlyACompletedWindowWritesTheResult : Obligations.OnlyACompletedWindowWritesTheResult :=
  fun _ _ _ h hi => ⟨(exec_speStep h).result_changed hi, (exec_speStep h).counter_zeroed⟩

/-- A feed stays inside the window, as it is refused on a completed one (U4). -/
theorem SpeStep.keeps_legal (h : SpeStep c p i p') (hL : SpeLegal c p) : SpeLegal c p' := by
  cases h with
  | kept => exact hL
  | init => exact ⟨by rintro _ ⟨⟩; rfl, hL.counter, rfl, hL.resetTogether⟩
  | feed _ _ hn _ hlt =>
    refine ⟨hL.length, ?_, hL.initTogether, rfl, rfl⟩
    rintro _ ⟨⟩
    rw [← hL.length _ hn]
    exact hlt
  | reset => exact ⟨hL.length, by rintro _ ⟨⟩; exact Nat.zero_le _, hL.initTogether, rfl, rfl⟩
  | restart => exact speLegal_reset c

end Sys2Proof.Machine
end

section
/-! CSM under one operation (R34 to R37): what each writer leaves, and what follows for the writers of each
element and for the legal values. -/

namespace Sys2Proof.Machine

theorem incCounter_lt (c : Config) (n : Nat) : incCounter c n < 2 ^ c.cntBits :=
  Nat.mod_lt _ (Nat.two_pow_pos _)

theorem nextBlink_lt {c : Config} (h : 1 ≤ c.blinkTicks) (b : Nat) : nextBlink c b < 2 * c.blinkTicks :=
  Nat.mod_lt _ (by omega)

/-- A counter is as it was or holds a value of its width. -/
def CounterMoved (c : Config) (e e' : Element Nat) : Prop :=
  e' = e ∨ ∃ n < 2 ^ c.cntBits, e' = .written n

theorem CounterMoved.refl (c : Config) (e : Element Nat) : CounterMoved c e e :=
  .inl rfl

theorem counterMoved_inc (c : Config) (e : Element Nat) (n : Nat) :
    CounterMoved c e (.written (incCounter c n)) :=
  .inr ⟨_, incCounter_lt c n, rfl⟩

theorem counterMoved_zero (c : Config) (e : Element Nat) : CounterMoved c e (.written 0) :=
  .inr ⟨0, Nat.two_pow_pos _, rfl⟩

theorem CounterMoved.isWritten {c : Config} {e e' : Element Nat} (h : CounterMoved c e e')
    (he : e.isWritten = true) : e'.isWritten = true := by
  obtain rfl | ⟨_, -, rfl⟩ := h
  · exact he
  · rfl

theorem CounterMoved.lt {c : Config} {e e' : Element Nat} (h : CounterMoved c e e')
    (he : ∀ n, e = .written n → n < 2 ^ c.cntBits) : ∀ n, e' = .written n → n < 2 ^ c.cntBits := by
  obtain rfl | ⟨_, hlt, rfl⟩ := h
  · exact he
  · rintro _ ⟨⟩
    exact hlt

/-- What `CSM.PROCESS` leaves in CSM (R142): the mode and the phase as they were (R35), and the decision and the
counters at legal values. -/
structure Processed (c : Config) (k k' : Csm) : Prop where
  mode : k'.mode = k.mode
  blink : k'.blink = k.blink
  rd : k'.rd.isWritten = true
  above : CounterMoved c k.above k'.above
  below : CounterMoved c k.below k'.below

theorem processed_open {c : Config} {k : Csm} (hrd : k.rd.isWritten = true) (power high : RealNum)
    (above onDelay : Nat) : Processed c k (processOpen c k power high above onDelay) := by
  unfold processOpen
  split_ifs
  · exact ⟨rfl, rfl, rfl, counterMoved_inc c _ _, counterMoved_zero c _⟩
  · exact ⟨rfl, rfl, hrd, counterMoved_inc c _ _, .refl c _⟩
  · exact ⟨rfl, rfl, hrd, counterMoved_zero c _, .refl c _⟩
  · exact ⟨rfl, rfl, hrd, .refl c _, .refl c _⟩

theorem processed_closed {c : Config} {k : Csm} (hrd : k.rd.isWritten = true) (power low : RealNum)
    (below offDelay : Nat) : Processed c k (processClosed c k power low below offDelay) := by
  unfold processClosed
  split_ifs
  · exact ⟨rfl, rfl, rfl, counterMoved_zero c _, counterMoved_inc c _ _⟩
  · exact ⟨rfl, rfl, hrd, .refl c _, counterMoved_inc c _ _⟩
  · exact ⟨rfl, rfl, hrd, .refl c _, counterMoved_zero c _⟩
  · exact ⟨rfl, rfl, hrd, .refl c _, .refl c _⟩

/-- CSM before and after an operation (R141, R142, R147 to R149, R230). -/
inductive CsmStep (c : Config) (k : Csm) : Instr → Csm → Prop
  | kept (i : Instr) : CsmStep c k i k
  | init (ctx : Ctx) (w : Word) (m : Mode) :
    CsmStep c k (.csmInit ctx w) ⟨.written m, .written .opened, .written 0, .written 0, .written 0⟩
  | process (ctx : Ctx) (power high low : RealNum) (on off : Word) {k' : Csm} (hrd : k.rd.isWritten = true)
    (h : Processed c k k') : CsmStep c k (.csmProcess ctx power high low on off) k'
  | short (ctx : Ctx) {m : Mode} (hm : k.mode = .written m) :
    CsmStep c k (.csmShort ctx) { k with mode := .written (shortPush m), blink := .written 0 }
  | long (ctx : Ctx) {m : Mode} (hm : k.mode = .written m) :
    CsmStep c k (.csmLong ctx) { k with mode := .written (longPush m), blink := .written 0 }
  | tick (ctx : Ctx) {b : Nat} (hb : k.blink = .written b) :
    CsmStep c k (.csmTick ctx) { k with blink := .written (nextBlink c b) }
  | restart (ctx : Ctx) : CsmStep c k (.sysRestart ctx) Csm.reset

theorem exec_csmStep {i : Instr} {s t : State} (h : exec i s = .next t) : CsmStep s.cfg s.csm i t.csm := by
  cases i with
  | csmInit ctx w =>
    obtain ⟨-, -, -, -, m, -, rfl⟩ := exec_csmInit_next h
    exact .init ctx w m
  | csmProcess ctx power high low on off =>
    obtain ⟨-, -, -, -, -, -, rd, _, _, hrd, -, -, rfl⟩ := exec_csmProcess_next h
    have hw : s.csm.rd.isWritten = true := by rw [hrd]; rfl
    cases rd with
    | opened => exact .process ctx power high low on off hw (processed_open hw _ _ _ _)
    | closed => exact .process ctx power high low on off hw (processed_closed hw _ _ _ _)
  | csmShort ctx =>
    obtain ⟨-, -, -, -, _, hm, rfl⟩ := exec_csmShort_next h
    exact .short ctx hm
  | csmLong ctx =>
    obtain ⟨-, -, -, -, _, hm, rfl⟩ := exec_csmLong_next h
    exact .long ctx hm
  | csmTick ctx =>
    obtain ⟨-, -, -, -, _, hb, rfl⟩ := exec_csmTick_next h
    exact .tick ctx hb
  | sysRestart ctx =>
    obtain ⟨-, rfl⟩ := exec_sysRestart_next h
    exact .restart ctx
  | _ =>
    rw [(exec_frame h).csm rfl]
    exact .kept _

variable {c : Config} {k k' : Csm} {i : Instr}

/-- R35: besides `CSM.INIT` and a restart, only `CSM.PROCESS` moves the decision or a counter. -/
theorem CsmStep.decision_changed (h : CsmStep c k i k') (hr : ∀ ctx, i ≠ .sysRestart ctx)
    (hi : ∀ ctx w, i ≠ .csmInit ctx w) (hne : k'.rd ≠ k.rd ∨ k'.above ≠ k.above ∨ k'.below ≠ k.below) :
    ∃ ctx p hi lo x y, i = .csmProcess ctx p hi lo x y := by
  cases h with
  | process => exact ⟨_, _, _, _, _, _, rfl⟩
  | init ctx w => exact absurd rfl (hi ctx w)
  | restart ctx => exact absurd rfl (hr ctx)
  | kept | short | long | tick => simp at hne

theorem CsmStep.mode_changed (h : CsmStep c k i k') (hr : ∀ ctx, i ≠ .sysRestart ctx)
    (hi : ∀ ctx w, i ≠ .csmInit ctx w) (hne : k'.mode ≠ k.mode) :
    ∃ ctx, i = .csmShort ctx ∨ i = .csmLong ctx := by
  cases h with
  | short ctx => exact ⟨ctx, .inl rfl⟩
  | long ctx => exact ⟨ctx, .inr rfl⟩
  | init ctx w => exact absurd rfl (hi ctx w)
  | restart ctx => exact absurd rfl (hr ctx)
  | kept | tick => exact absurd rfl hne
  | process _ _ _ _ _ _ _ h => exact absurd h.mode hne

theorem CsmStep.blink_changed (h : CsmStep c k i k') (hr : ∀ ctx, i ≠ .sysRestart ctx)
    (hi : ∀ ctx w, i ≠ .csmInit ctx w) (hne : k'.blink ≠ k.blink) :
    ∃ ctx, i = .csmShort ctx ∨ i = .csmLong ctx ∨ i = .csmTick ctx := by
  cases h with
  | short ctx => exact ⟨ctx, .inl rfl⟩
  | long ctx => exact ⟨ctx, .inr (.inl rfl)⟩
  | tick ctx => exact ⟨ctx, .inr (.inr rfl)⟩
  | init ctx w => exact absurd rfl (hi ctx w)
  | restart ctx => exact absurd rfl (hr ctx)
  | kept => exact absurd rfl hne
  | process _ _ _ _ _ _ _ h => exact absurd h.blink hne

/-- Settles O39: by what each writer of CSM leaves. -/
theorem whoWritesTheControlState : Obligations.WhoWritesTheControlState :=
  fun _ _ _ h hr hi => ⟨(exec_csmStep h).decision_changed hr hi, (exec_csmStep h).mode_changed hr hi,
    (exec_csmStep h).blink_changed hr hi⟩

/-- A push writes the mode and the phase where they are written already. -/
theorem CsmLegal.push (hL : CsmLegal c k) (hT : 1 ≤ c.blinkTicks) {m : Mode} (hm : k.mode = .written m)
    (m' : Mode) : CsmLegal c { k with mode := .written m', blink := .written 0 } := by
  obtain ⟨hmode, habove, hbelow, -⟩ := hL.together
  have hrd : true = k.rd.isWritten := by rw [← hmode, hm]; rfl
  refine ⟨⟨hrd, habove, hbelow, hrd⟩, hL.above, hL.below, ?_⟩
  rintro _ ⟨⟩
  omega

theorem CsmLegal.processed (hL : CsmLegal c k) (hrd : k.rd.isWritten = true) (h : Processed c k k') :
    CsmLegal c k' := by
  obtain ⟨hmode, habove, hbelow, hblink⟩ := hL.together
  refine ⟨?_, h.above.lt hL.above, h.below.lt hL.below, h.blink ▸ hL.blink⟩
  rw [h.mode, h.blink, h.rd, ← hrd]
  exact ⟨hmode, (h.above.isWritten (habove.trans hrd)).trans hrd.symm,
    (h.below.isWritten (hbelow.trans hrd)).trans hrd.symm, hblink⟩

theorem CsmStep.keeps_legal (h : CsmStep c k i k') (hL : CsmLegal c k) (hT : 1 ≤ c.blinkTicks) :
    CsmLegal c k' := by
  cases h with
  | kept => exact hL
  | init =>
    have hpos : 0 < 2 ^ c.cntBits := Nat.two_pow_pos _
    refine ⟨⟨rfl, rfl, rfl, rfl⟩, ?_, ?_, ?_⟩ <;> rintro _ ⟨⟩ <;> omega
  | process _ _ _ _ _ _ hrd h => exact hL.processed hrd h
  | short _ hm => exact hL.push hT hm _
  | long _ hm => exact hL.push hT hm _
  | @tick _ b hb =>
    obtain ⟨hmode, habove, hbelow, hblink⟩ := hL.together
    refine ⟨⟨hmode, habove, hbelow, ?_⟩, hL.above, hL.below, ?_⟩
    · rw [← hblink, hb]; rfl
    · rintro _ ⟨⟩
      exact nextBlink_lt hT b
  | restart => exact csmLegal_reset c

end Sys2Proof.Machine
end

section
/-! ACQ under one operation (R24 to R29): what each writer leaves, and that the sum of a group and its quarter
stay inside their widths. -/

namespace Sys2Proof.Machine

theorem inSigned_iff {w : Nat} {v : Int} :
    inSigned w v = true ↔ -(2 : Int) ^ (w - 1) ≤ v ∧ v < (2 : Int) ^ (w - 1) := by
  simp [inSigned]

/-- A narrow value is its own sign extension. -/
theorem sext_of_inSigned {w n : Nat} (hn : 1 ≤ n) (hw : w ≤ n) {v : Int} (h : inSigned w v = true) :
    sext n v = v := by
  obtain ⟨hlo, hhi⟩ := inSigned_iff.1 h
  have hpow : (2 : Int) ^ (w - 1) ≤ 2 ^ (n - 1) := pow_le_pow_right₀ (by norm_num) (by omega)
  exact BitVec.toInt_ofInt_eq_self (by omega) (by omega) (by omega)

/-- R24: the sum of `k` raw samples. -/
def SumOf (c : Config) (k : Nat) (v : Int) : Prop :=
  -((k : Int) * 2 ^ (c.rawBits - 1)) ≤ v ∧ v ≤ (k : Int) * (2 ^ (c.rawBits - 1) - 1)

theorem sumOf_zero (c : Config) : SumOf c 0 0 := by
  simp [SumOf]

theorem SumOf.add {c : Config} {k : Nat} {v x : Int} (h : SumOf c k v) (hx : inSigned c.rawBits x = true) :
    SumOf c (k + 1) (v + x) := by
  obtain ⟨hlo, hhi⟩ := inSigned_iff.1 hx
  unfold SumOf at *
  push_cast
  constructor <;> linarith

/-- R24, R26: a quarter of the sum of sixteen samples fits `DS_BITS`. -/
theorem SumOf.quarter_fits {c : Config} {v : Int} (h : SumOf c 16 v) (hr : 1 ≤ c.rawBits)
    (ha : c.rawBits + 4 ≤ c.accBits) : inSigned (dsBits c) (asr v 2) = true := by
  have hpow : 4 * (2 : Int) ^ (c.rawBits - 1) ≤ 2 ^ (dsBits c - 1) :=
    calc 4 * (2 : Int) ^ (c.rawBits - 1) = 2 ^ (c.rawBits - 1 + 2) := by ring
      _ ≤ 2 ^ (dsBits c - 1) := pow_le_pow_right₀ (by norm_num) (by unfold dsBits; omega)
  obtain ⟨hlo, hhi⟩ := h
  rw [inSigned_iff, asr]
  push_cast at hlo hhi
  constructor <;> omega

/-- What `ACQ.INIT` leaves in ACQ (R101): all but the value is written. -/
def initialised (a : Acq) (p q : Nat) : Acq where
  run := true
  feEn := false
  convBusy := false
  sum := .written 0
  cnt := .written 0
  value := a.value
  newValue := .written false
  newConv := .written false
  presc := .written p
  cmp := .written q

/-- ACQ before and after an operation (R101 to R105, R181, R230). -/
inductive AcqStep (c : Config) (a : Acq) : Instr → Acq → Prop
  | kept (i : Instr) : AcqStep c a i a
  | init (ctx : Ctx) (rate : Word) {p q : Nat} (hp : p ∈ c.prescalers) (hq : 1 ≤ q ∧ q ≤ c.timerMax) :
    AcqStep c a (.acqInit ctx rate) (initialised a p q)
  | shutdown (ctx : Ctx) :
    AcqStep c a (.acqShutdown ctx) { a with run := false, feEn := false, convBusy := false }
  | period (ctx : Ctx) (hrun : a.run = true) :
    AcqStep c a (.acqPeriod ctx) { a with feEn := true, newConv := .written true }
  | conv (ctx : Ctx) (raw : Word) {sum : Int} {cnt : BitVec 4} (hfe : a.feEn = true)
    (hraw : inSigned c.rawBits raw.toInt = true) (hsum : a.sum = .written sum) (hcnt : a.cnt = .written cnt) :
    AcqStep c a (.acqConv ctx raw) (converted a (sum + sext 16 raw.toInt) (cnt + 1))
  | take (ctx : Ctx) (sel : Word) :
    AcqStep c a (.acqTake ctx sel)
      { a with
        newValue := takenFlag (selects sel 0) a.newValue, newConv := takenFlag (selects sel 1) a.newConv }
  | wait (ctx : Ctx) :
    AcqStep c a (.sysWait ctx) { a with convBusy := a.convBusy || startsConversion a }
  | restart (ctx : Ctx) : AcqStep c a (.sysRestart ctx) Acq.reset

theorem exec_acqStep {i : Instr} {s t : State} (h : exec i s = .next t) : AcqStep s.cfg s.acq i t.acq := by
  cases i with
  | acqInit ctx rate =>
    obtain ⟨-, -, -, _, _, hfit, rfl⟩ := exec_acqInit_next h
    obtain ⟨_, _, hmem, -, -, hq⟩ := firstFit_some hfit
    exact .init ctx rate (by simp [hmem]) hq
  | acqShutdown ctx =>
    obtain ⟨-, -, rfl⟩ := exec_acqShutdown_next h
    exact .shutdown ctx
  | acqPeriod ctx =>
    obtain ⟨-, -, hrun, rfl⟩ := exec_acqPeriod_next h
    exact .period ctx hrun
  | acqConv ctx raw =>
    obtain ⟨-, -, -, hfe, -, hraw, _, _, hsum, hcnt, rfl⟩ := exec_acqConv_next h
    exact .conv ctx raw hfe hraw hsum hcnt
  | acqTake ctx sel =>
    obtain ⟨-, -, -, -, -, -, -, _, _, rfl⟩ := exec_acqTake_next h
    exact .take ctx sel
  | sysWait ctx =>
    obtain ⟨-, -, -, -, rfl⟩ := exec_sysWait_next h
    exact .wait ctx
  | sysRestart ctx =>
    obtain ⟨-, rfl⟩ := exec_sysRestart_next h
    exact .restart ctx
  | _ =>
    rw [(exec_frame h).acq rfl]
    exact .kept _

theorem takenFlag_isWritten {b : Bool} {e : Element Bool} (h : e.isWritten = true) :
    (takenFlag b e).isWritten = true := by
  cases b with
  | true => rfl
  | false => exact h

/-- A take sets no flag. -/
theorem of_takenFlag_set {b : Bool} {e : Element Bool} (h : takenFlag b e = .written true) :
    e = .written true := by
  cases b with
  | true => cases h
  | false => exact h

variable {c : Config} {a a' : Acq} {i : Instr}

theorem startsConversion_feEn (h : startsConversion a = true) : a.feEn = true := by
  simp only [startsConversion, Bool.and_eq_true] at h
  exact h.1.2

theorem AcqLegal.initialised (hL : AcqLegal c a) {p q : Nat} (hp : p ∈ c.prescalers)
    (hq : 1 ≤ q ∧ q ≤ c.timerMax) : AcqLegal c (initialised a p q) where
  running _ := ⟨rfl, rfl, rfl, rfl, rfl, rfl⟩
  frontEnd := nofun
  busy := nofun
  sumOfSamples := by rintro _ ⟨⟩; exact ⟨0, rfl, sumOf_zero c⟩
  valueFits := hL.valueFits
  flagged := nofun
  prescaler := by rintro _ ⟨⟩; exact hp
  compare := by rintro _ ⟨⟩; exact hq

theorem toNat_add_one_of_ne_zero {k : BitVec 4} (h : k + 1 ≠ 0) : (k + 1).toNat = k.toNat + 1 := by
  bv_omega

theorem toNat_of_add_one_eq_zero {k : BitVec 4} (h : k + 1 = 0) : k.toNat + 1 = 16 := by
  bv_omega

/-- R104: a conversion adds one sample to the group, and the sixteenth publishes a quarter of the sum. -/
theorem AcqLegal.converted (hL : AcqLegal c a) (hc : wellFormed c = true) (hfe : a.feEn = true) {sum x : Int}
    {cnt : BitVec 4} (hx : inSigned c.rawBits x = true) (hsum : a.sum = .written sum)
    (hcnt : a.cnt = .written cnt) : AcqLegal c (converted a (sum + sext 16 x) (cnt + 1)) := by
  obtain ⟨hr, hr16, hacc, -⟩ := wellFormed_bounds hc
  obtain ⟨-, -, hnv, hnc, hpresc, hcmp⟩ := hL.running (hL.frontEnd hfe)
  have hgroup : SumOf c (cnt.toNat + 1) (sum + sext 16 x) := by
    obtain ⟨k, hk, hold⟩ := hL.sumOfSamples _ hsum
    cases hcnt.symm.trans hk
    rw [sext_of_inSigned (by norm_num) hr16 hx]
    exact SumOf.add hold hx
  unfold Machine.converted
  split
  case isTrue hlast =>
    rw [toNat_of_add_one_eq_zero hlast] at hgroup
    rw [hlast]
    exact {
      running := fun _ => ⟨rfl, rfl, rfl, hnc, hpresc, hcmp⟩
      frontEnd := nofun
      busy := nofun
      sumOfSamples := by rintro _ ⟨⟩; exact ⟨0, rfl, sumOf_zero c⟩
      valueFits := by rintro _ ⟨⟩; exact hgroup.quarter_fits hr hacc
      flagged := fun _ => rfl
      prescaler := hL.prescaler
      compare := hL.compare }
  case isFalse hmore =>
    rw [← toNat_add_one_of_ne_zero hmore] at hgroup
    exact {
      running := fun _ => ⟨rfl, rfl, hnv, hnc, hpresc, hcmp⟩
      frontEnd := hL.frontEnd
      busy := nofun
      sumOfSamples := by rintro _ ⟨⟩; exact ⟨_, rfl, hgroup⟩
      valueFits := hL.valueFits
      flagged := hL.flagged
      prescaler := hL.prescaler
      compare := hL.compare }

theorem AcqStep.keeps_legal (h : AcqStep c a i a') (hL : AcqLegal c a) (hc : wellFormed c = true) :
    AcqLegal c a' := by
  cases h with
  | kept => exact hL
  | init _ _ hp hq => exact hL.initialised hp hq
  | shutdown => exact { hL with running := nofun, frontEnd := nofun, busy := nofun }
  | period _ hrun =>
    obtain ⟨hsum, hcnt, hnv, -, hpresc, hcmp⟩ := hL.running hrun
    exact { hL with
      running := fun _ => ⟨hsum, hcnt, hnv, rfl, hpresc, hcmp⟩
      frontEnd := fun _ => hrun
      busy := fun _ => rfl }
  | conv _ _ hfe hraw hsum hcnt => exact hL.converted hc hfe hraw hsum hcnt
  | take =>
    exact { hL with
      running := fun hrun => by
        obtain ⟨hsum, hcnt, hnv, hnc, hpresc, hcmp⟩ := hL.running hrun
        exact ⟨hsum, hcnt, takenFlag_isWritten hnv, takenFlag_isWritten hnc, hpresc, hcmp⟩
      flagged := fun hset => hL.flagged (of_takenFlag_set hset) }
  | wait =>
    exact { hL with
      busy := fun hb => (Bool.or_eq_true_iff.1 hb).elim hL.busy startsConversion_feEn }
  | restart => exact acqLegal_reset c

end Sys2Proof.Machine
end

section
/-! The store and the store reset under one step (R60, R162), and the invariant of every step. -/

namespace Sys2Proof.Machine

theorem StoreLegal.writeLE {c : Config} {m : Memory} (hL : StoreLegal c m) {a n : Nat} (v : Nat)
    (h : a + n ≤ c.nvmSize) : StoreLegal c (writeLE m a n v) :=
  ⟨wf_writeLE hL.canonical a n v, inside_writeLE v hL.inside h⟩

variable {i : Instr} {s t : State}

theorem storeStep_keeps_storeLegal {j : StoreJob} (hL : StoreLegal s.cfg s.nvm) (h : storeStep j s = .next t) :
    StoreLegal s.cfg t.nvm := by
  obtain ⟨_, -, hin, rfl⟩ | ⟨-, hin, rfl⟩ := storeStep_next h
  all_goals exact hL.writeLE _ hin

/-- A reset that goes on had a default left to write, so it has the checksum at least still to write. -/
theorem storeStep_jobLegal {j : StoreJob} (ha : s.asleep = false) (h : storeStep j s = .next t) :
    JobLegal t := by
  obtain ⟨_, he, -, rfl⟩ | ⟨-, -, rfl⟩ := storeStep_next h
  · rintro _ ⟨⟩
    exact ⟨schemaAt_lt he, ha⟩
  · exact nofun

/-- An operation that does not write the store keeps a store reset as it is or cuts it. -/
theorem ExecFrame.keeps_jobLegal (hf : ExecFrame i s t) (hw : writesStore i = false) (hL : JobLegal s) :
    JobLegal t := by
  intro j hj
  obtain hn | ⟨hs, ha⟩ := hf.job hw
  · rw [hn] at hj
    cases hj
  · obtain ⟨hlast, hawake⟩ := hL j (hs ▸ hj)
    exact ⟨hf.cfg ▸ hlast, ha hawake⟩

theorem raiseError_keeps_legal {st : Status} (hL : Legal s) (h : raiseError s st = .next t) : Legal t := by
  rw [raiseError_next.1 h]
  exact ⟨hL.config, hL.acq, hL.spe, hL.csm, hL.store, hL.job⟩

/-- The three writers of the store write inside it, and begin a reset only awake. -/
theorem exec_keeps_store_and_job_legal (hL : Legal s) (h : exec i s = .next t) :
    StoreLegal s.cfg t.nvm ∧ JobLegal t := by
  cases i with
  | pstInit =>
    obtain ⟨-, -, ha, -, -, ⟨-, rfl⟩ | ⟨-, hs⟩⟩ := exec_pstInit_next h
    · exact ⟨hL.store, hL.job⟩
    · exact ⟨storeStep_keeps_storeLegal hL.store hs, storeStep_jobLegal ha hs⟩
  | pstResetAll =>
    obtain ⟨-, -, ha, -, -, hs⟩ := exec_pstResetAll_next h
    exact ⟨storeStep_keeps_storeLegal hL.store hs, storeStep_jobLegal ha hs⟩
  | pstSet =>
    obtain ⟨-, -, -, -, -, ⟨_, -, hr⟩ | ⟨_, -, -, -, hin, rfl⟩⟩ := exec_pstSet_next h
    · cases raiseError_next.1 hr
      exact ⟨hL.store, hL.job⟩
    · exact ⟨hL.store.writeLE _ hin, hL.job⟩
  | _ =>
    have hf := exec_frame h
    rw [hf.nvm rfl]
    exact ⟨hL.store, hf.keeps_jobLegal rfl hL.job⟩

theorem exec_keeps_legal (hL : Legal s) (h : exec i s = .next t) : Legal t := by
  have hcfg := (exec_frame h).cfg
  obtain ⟨hstore, hjob⟩ := exec_keeps_store_and_job_legal hL h
  obtain ⟨-, -, -, -, -, -, hT, -⟩ := wellFormed_bounds hL.config
  exact
    { config := hcfg ▸ hL.config
      acq := hcfg ▸ (exec_acqStep h).keeps_legal hL.acq hL.config
      spe := hcfg ▸ (exec_speStep h).keeps_legal hL.spe
      csm := hcfg ▸ (exec_csmStep h).keeps_legal hL.csm hT
      store := hcfg ▸ hstore
      job := hjob }

/-- A step of the store reset writes the store and the reset's position only. -/
theorem storeStep_keeps_legal {j : StoreJob} (hL : Legal s) (ha : s.asleep = false)
    (h : storeStep j s = .next t) : Legal t ∧ t.cfg = s.cfg := by
  have hstore := storeStep_keeps_storeLegal hL.store h
  have hjob := storeStep_jobLegal ha h
  obtain ⟨_, -, -, rfl⟩ | ⟨-, -, rfl⟩ := storeStep_next h
  all_goals exact ⟨⟨hL.config, hL.acq, hL.spe, hL.csm, hstore, hjob⟩, rfl⟩

theorem withPending_legal (hL : Legal s) (rest : List Input) : Legal (s.withPending rest) :=
  ⟨hL.config, hL.acq, hL.spe, hL.csm, hL.store, hL.job⟩

/-- Only the operation in progress is resumed. -/
theorem fetch_resume {j : StoreJob} {rest : List Input} (h : fetch s = .resume j rest) : s.job = some j := by
  unfold fetch at h
  split at h
  case h_2 hj | h_4 hj => cases h; exact hj
  case h_6 hj =>
    split at h
    · cases h; exact hj
    · cases h
  all_goals cases h

/-- A record that is no operation is answered with a named error, or is refused (R86). -/
theorem reject_next {e : DecodeError} (h : reject s e = .next t) : ∃ st, raiseError s st = .next t := by
  cases e with
  | illegalCommand code =>
    refine ⟨.illegalCommand code, ?_⟩
    simp only [reject] at h
    split at h
    · cases h
    · exact h
  | fieldKind | truncated | noRecord => cases h

/-- What a step does: the store reset in progress goes on, or an operation is executed, or a named error is
answered (R71, R72, R86). -/
theorem step_next (h : step s = .next t) :
    ∃ rest, (∃ j, s.job = some j ∧ storeStep j (s.withPending rest) = .next t)
      ∨ (∃ i, exec i (s.withPending rest) = .next t)
      ∨ ∃ st, raiseError (s.withPending rest) st = .next t := by
  unfold step at h
  split at h
  · cases h
  · next j rest hf =>
    obtain ⟨-, -, hs⟩ := continueStore_next.1 h
    exact ⟨rest, .inl ⟨j, fetch_resume hf, hs⟩⟩
  · next rest _ =>
    split at h
    · exact ⟨rest, .inr (.inl ⟨_, h⟩)⟩
    · exact ⟨rest, .inr (.inr (reject_next h))⟩

/-- Settles O59: every operation keeps the state legal, so does every step of the store reset, whose foreground is
awake, and a named error writes no element. -/
theorem everyStepKeepsTheStateLegal : Obligations.EveryStepKeepsTheStateLegal := by
  intro s t hL h
  obtain ⟨rest, ⟨j, hj, hs⟩ | ⟨i, hi⟩ | ⟨st, hr⟩⟩ := step_next h
  · obtain ⟨-, hawake⟩ := hL.job j hj
    exact storeStep_keeps_legal (s := s.withPending rest) (withPending_legal hL rest) hawake hs
  · exact ⟨exec_keeps_legal (withPending_legal hL rest) hi, (exec_frame hi).cfg⟩
  · refine ⟨raiseError_keeps_legal (withPending_legal hL rest) hr, ?_⟩
    rw [raiseError_next.1 hr]
    rfl

end Sys2Proof.Machine
end

section
/-! The store reset in progress, one step at a time (R65, R72): what the run presents next, and the step taken. -/

namespace Sys2Proof.Machine

theorem continueStore_stopped {j : StoreJob} {s : State} (hc : wellFormed s.cfg = true)
    (hrun : s.acq.run = false) : continueStore j s = storeStep j s := by
  simp [continueStore, hc, hrun]

/-- No store write while acquisition runs (R240, log entry 9). -/
theorem continueStore_running {j : StoreJob} {s : State} (hc : wellFormed s.cfg = true)
    (hrun : s.acq.run = true) : continueStore j s = .refused .storeWhileRunning := by
  simp [continueStore, hc, hrun]

section
variable {s : State} {j : StoreJob} (hj : s.job = some j)
include hj

theorem fetch_job_of_nil (hp : s.pending = []) : fetch s = .resume j s.pending := by
  simp [fetch, hj, hp]

theorem fetch_job_of_advance {rest : List Input} (hp : s.pending = .advance :: rest) :
    fetch s = .resume j rest := by
  simp [fetch, hj, hp]

/-- A record that waits stays at the head of the run. -/
theorem fetch_job_of_waiting {r : Record} {rest : List Input} (hp : s.pending = .record r :: rest)
    (hw : waitsForForeground r = true) : fetch s = .resume j s.pending := by
  simp [fetch, hj, hp, hw]

end

theorem step_of_fetch_resume {s : State} {j : StoreJob} {rest : List Input} (h : fetch s = .resume j rest) :
    step s = continueStore j (s.withPending rest) := by
  rw [step, h]

/-- Settles O6: each of the three runs lets the store reset go on, and the write follows or is refused as
acquisition is stopped or runs. -/
theorem stepResumesTheStoreReset : Obligations.StepResumesTheStoreReset := by
  intro s j hc hj
  refine ⟨fun hrun => ⟨fun hp => ?_, fun rest hp => ?_, fun r rest hp hw => ?_⟩, fun hrun hp => ?_⟩
  · exact (step_of_fetch_resume (fetch_job_of_nil hj hp)).trans (continueStore_stopped hc hrun)
  · exact (step_of_fetch_resume (fetch_job_of_advance hj hp)).trans (continueStore_stopped hc hrun)
  · exact (step_of_fetch_resume (fetch_job_of_waiting hj hp hw)).trans (continueStore_stopped hc hrun)
  · have hresume : ∃ l, fetch s = .resume j l := by
      obtain hp | ⟨_, hp⟩ | ⟨_, _, hp, hw⟩ := hp
      · exact ⟨_, fetch_job_of_nil hj hp⟩
      · exact ⟨_, fetch_job_of_advance hj hp⟩
      · exact ⟨_, fetch_job_of_waiting hj hp hw⟩
    obtain ⟨_, hf⟩ := hresume
    exact (step_of_fetch_resume hf).trans (continueStore_running hc hrun)

end Sys2Proof.Machine
end

section
/-! The memory has one owner (R66), and no access falls outside it (R61, R202): every offset an operation forms
is the checksum's or a slot's, and both lie inside the memory of a well-formed configuration. -/

namespace Sys2Proof.Machine

theorem writesStore_eq_false {i : Instr}
    (hi : ∀ c, i ≠ .pstInit c ∧ i ≠ .pstResetAll c ∧ ∀ x v, i ≠ .pstSet c x v) : writesStore i = false := by
  cases i with
  | pstInit c =>
    obtain ⟨hinit, -, -⟩ := hi c
    exact absurd rfl hinit
  | pstResetAll c =>
    obtain ⟨-, hreset, -⟩ := hi c
    exact absurd rfl hreset
  | pstSet c x v =>
    obtain ⟨-, -, hset⟩ := hi c
    exact absurd rfl (hset x v)
  | _ => rfl

/-- Settles O50: the frame of an operation that does not write the store keeps the memory itself. -/
theorem onlyTheStoreWritesItsMemory : Obligations.OnlyTheStoreWritesItsMemory := by
  intro i s t h hi a
  rw [(exec_frame h).nvm (writesStore_eq_false hi)]

/-- The outcomes the spec gives an operation (R14): a next state, a refusal, an event that is not enabled. An
access outside the memory is none of them. -/
inductive Answered : Result → Prop
  | next (t : State) : Answered (.next t)
  | refused (why : Refusal) : Answered (.refused why)
  | notEnabled : Answered (.fault .eventNotEnabled)

theorem Answered.ne_offsetOutsideStore {r : Result} (h : Answered r) : r ≠ .fault .offsetOutsideStore := by
  cases h <;> nofun

section
/-! Each guard lets its body run in a well-formed configuration only. -/

variable {s : State} {body : Result} (h : wellFormed s.cfg = true → Answered body)
include h

theorem answered_anyOp : Answered (anyOp s body) := by
  unfold anyOp
  split_ifs with hc
  · exact .refused _
  · exact h (eq_true_of_ne_false hc)

theorem answered_interruptOp (ctx : Ctx) : Answered (interruptOp ctx s body) := by
  refine answered_anyOp fun hc => ?_
  split_ifs
  · exact .refused _
  · exact h hc

theorem answered_eitherOp (ctx : Ctx) : Answered (eitherOp ctx s body) := by
  refine answered_anyOp fun hc => ?_
  split_ifs
  · exact .refused _
  · exact .refused _
  · exact h hc

theorem answered_foregroundOp (ctx : Ctx) : Answered (foregroundOp ctx s body) := by
  refine answered_anyOp fun hc => ?_
  split_ifs
  · exact .refused _
  · exact .refused _
  · exact .refused _
  · exact h hc

theorem answered_foregroundEvent (ctx : Ctx) : Answered (foregroundEvent ctx s body) := by
  refine answered_anyOp fun hc => ?_
  split_ifs
  · exact .refused _
  · exact .notEnabled
  · exact .refused _
  · exact h hc

theorem answered_storeWriter (ctx : Ctx) : Answered (storeWriter ctx s body) := by
  refine answered_foregroundOp (fun hc => ?_) ctx
  split_ifs
  · exact .refused _
  · exact h hc

end

theorem answered_readElement {α : Type} {e : Element α} {name : String} {k : α → Result}
    (h : ∀ v, Answered (k v)) : Answered (readElement e name k) := by
  cases e with
  | unwritten => exact .refused _
  | written v => exact h v

theorem answered_readSelected {selected : Bool} {e : Element Bool} {name : String} {k : Bool → Result}
    (h : ∀ b, Answered (k b)) : Answered (readSelected selected e name k) := by
  cases selected with
  | true => exact answered_readElement h
  | false => exact h false

theorem answered_changeMode (cycle : Mode → Mode) (s : State) : Answered (changeMode cycle s) :=
  answered_readElement fun _ => .next _

/-- R61: a default goes to its slot and the checksum to offset 0, both inside the memory. -/
theorem answered_storeStep {s : State} (hc : wellFormed s.cfg = true) (j : StoreJob) :
    Answered (storeStep j s) := by
  unfold storeStep
  split
  · next e he =>
    rw [storing_inside (slot_inside hc (schemaAt_lt he))]
    exact .next _
  · rw [storing_inside (checksum_inside hc)]
    exact .next _

theorem answered_continueStore (j : StoreJob) (s : State) : Answered (continueStore j s) := by
  refine answered_anyOp fun hc => ?_
  split_ifs
  · exact .refused _
  · exact answered_storeStep hc j

theorem answered_acqInit (ctx : Ctx) (rate : Word) (s : State) : Answered (execAcqInit ctx rate s) := by
  refine answered_eitherOp (fun _ => ?_) ctx
  split
  · exact .refused _
  · split
    · exact .refused _
    · exact .next _

theorem answered_acqPeriod (ctx : Ctx) (s : State) : Answered (execAcqPeriod ctx s) := by
  refine answered_interruptOp (fun _ => ?_) ctx
  split_ifs
  · exact .notEnabled
  · exact .next _

theorem answered_acqConv (ctx : Ctx) (raw : Word) (s : State) : Answered (execAcqConv ctx raw s) := by
  refine answered_interruptOp (fun _ => ?_) ctx
  split_ifs
  · exact .notEnabled
  · exact .refused _
  · exact answered_readElement fun _ => answered_readElement fun _ => .next _

theorem answered_acqTake (ctx : Ctx) (sel : Word) (s : State) : Answered (execAcqTake ctx sel s) := by
  refine answered_foregroundOp (fun _ => ?_) ctx
  split_ifs
  · exact .refused _
  · refine answered_readSelected fun f0 => answered_readSelected fun f1 => ?_
    cases f0 with
    | true => exact answered_readElement fun _ => .next _
    | false => exact .next _

theorem answered_speFeed (ctx : Ctx) (x : Word) (s : State) : Answered (execSpeFeed ctx x s) := by
  refine answered_foregroundOp (fun _ => ?_) ctx
  split_ifs
  · exact .refused _
  · refine answered_readElement fun _ => answered_readElement fun _ => answered_readElement fun _ =>
      answered_readElement fun _ => answered_readElement fun _ => ?_
    split_ifs
    · exact .next _
    · exact .refused _

theorem answered_csmInit (ctx : Ctx) (mode : Word) (s : State) : Answered (execCsmInit ctx mode s) := by
  refine answered_foregroundOp (fun _ => ?_) ctx
  split
  · exact .refused _
  · exact .next _

theorem answered_csmProcess (ctx : Ctx) (power high low : RealNum) (on off : Word) (s : State) :
    Answered (execCsmProcess ctx power high low on off s) := by
  refine answered_foregroundOp (fun _ => ?_) ctx
  split_ifs
  · exact .refused _
  · refine answered_readElement fun rd => answered_readElement fun _ => answered_readElement fun _ => ?_
    cases rd with
    | opened => exact .next _
    | closed => exact .next _

theorem answered_pstInit (ctx : Ctx) (s : State) : Answered (execPstInit ctx s) := by
  refine answered_storeWriter (fun hc => ?_) ctx
  rw [loading_inside (checksum_inside hc)]
  split_ifs
  · exact answered_storeStep hc _
  · exact .next _

theorem answered_pstGet (ctx : Ctx) (index : Word) (s : State) : Answered (execPstGet ctx index s) := by
  refine answered_foregroundOp (fun hc => ?_) ctx
  split
  · exact .next _
  · next e he =>
    rw [loading_inside (slot_inside hc (schemaAt_lt he))]
    exact .next _

theorem answered_pstSet (ctx : Ctx) (index value : Word) (s : State) :
    Answered (execPstSet ctx index value s) := by
  refine answered_storeWriter (fun hc => ?_) ctx
  split
  · exact .next _
  · next e he =>
    split_ifs
    · exact .next _
    · exact .next _
    · rw [storing_inside (slot_inside hc (schemaAt_lt he))]
      exact .next _

theorem answered_pstGetRange (ctx : Ctx) (index : Word) (s : State) :
    Answered (execPstGetRange ctx index s) := by
  refine answered_foregroundOp (fun _ => ?_) ctx
  split
  · exact .next _
  · exact .next _

theorem answered_exec (i : Instr) (s : State) : Answered (exec i s) := by
  cases i with
  | acqInit => exact answered_acqInit _ _ s
  | acqPeriod => exact answered_acqPeriod _ s
  | acqConv => exact answered_acqConv _ _ s
  | acqTake => exact answered_acqTake _ _ s
  | speFeed => exact answered_speFeed _ _ s
  | csmInit => exact answered_csmInit _ _ s
  | csmProcess => exact answered_csmProcess _ _ _ _ _ _ s
  | csmShort | csmLong => exact answered_foregroundEvent (fun _ => answered_changeMode _ s) _
  | pstInit => exact answered_pstInit _ s
  | pstResetAll => exact answered_storeWriter (fun hc => answered_storeStep hc _) _
  | pstGet => exact answered_pstGet _ _ s
  | pstSet => exact answered_pstSet _ _ _ s
  | pstGetRange => exact answered_pstGetRange _ _ s
  | speGetResult | csmTick =>
    exact answered_foregroundOp (fun _ => answered_readElement fun _ => .next _) _
  | speInit | speReset | sysWait | sysWdkick => exact answered_foregroundOp (fun _ => .next _) _
  | acqShutdown => exact answered_eitherOp (fun _ => .next _) _
  | sysSerial => exact answered_interruptOp (fun _ => .next _) _
  | sysRestart => exact answered_anyOp fun _ => .next _

theorem answered_reject (s : State) (e : DecodeError) : Answered (reject s e) := by
  cases e with
  | illegalCommand => exact answered_anyOp fun _ => .next _
  | fieldKind | truncated | noRecord => exact .refused _

/-- There is no step for want of a presented record or of an operation in progress, and for nothing else. -/
theorem fetch_stuck {s : State} {why : Fault} (h : fetch s = .stuck why) :
    why = .nothingPresented ∨ why = .nothingInProgress := by
  unfold fetch at h
  split at h
  case h_1 => cases h; exact .inl rfl
  case h_3 => cases h; exact .inr rfl
  case h_6 => split at h <;> cases h
  all_goals cases h

/-- Settles O51: an operation has an outcome of R14, and a step is one of an operation or of the store reset, or
finds nothing to do. -/
theorem noOffsetOutsideTheMemory : Obligations.NoOffsetOutsideTheMemory := by
  refine ⟨fun i s => (answered_exec i s).ne_offsetOutsideStore, fun s => ?_⟩
  unfold step
  split
  · next why hf =>
    rintro ⟨⟩
    obtain hw | hw := fetch_stuck hf
    · cases hw
    · cases hw
  · exact (answered_continueStore _ _).ne_offsetOutsideStore
  · split
    · exact (answered_exec _ _).ne_offsetOutsideStore
    · exact (answered_reject _ _).ne_offsetOutsideStore

end Sys2Proof.Machine
end

section
/-! The binary form of a trace reads back (R92): a word, a field, the context suffix, one record of each format,
one operation, and by induction a run of operations. -/

namespace Sys2Proof

/-- The record an operation is presented as decodes to the operation: the laws of `Laws/PerInstr.lean` together. -/
theorem decode_encode : ∀ i : Instr, decode (encode i) = .ok i
  | .acqInit c rate => Laws.RecordRoundTrip.acqInit c rate
  | .acqShutdown c => Laws.RecordRoundTrip.acqShutdown c
  | .acqPeriod c => Laws.RecordRoundTrip.acqPeriod c
  | .acqConv c raw => Laws.RecordRoundTrip.acqConv c raw
  | .acqTake c sel => Laws.RecordRoundTrip.acqTake c sel
  | .speInit c f => Laws.RecordRoundTrip.speInit c f
  | .speFeed c x => Laws.RecordRoundTrip.speFeed c x
  | .speReset c => Laws.RecordRoundTrip.speReset c
  | .speGetResult c => Laws.RecordRoundTrip.speGetResult c
  | .csmInit c mode => Laws.RecordRoundTrip.csmInit c mode
  | .csmProcess c p h l on off => Laws.RecordRoundTrip.csmProcess c p h l on off
  | .csmShort c => Laws.RecordRoundTrip.csmShort c
  | .csmLong c => Laws.RecordRoundTrip.csmLong c
  | .csmTick c => Laws.RecordRoundTrip.csmTick c
  | .pstInit c => Laws.RecordRoundTrip.pstInit c
  | .pstResetAll c => Laws.RecordRoundTrip.pstResetAll c
  | .pstGet c index => Laws.RecordRoundTrip.pstGet c index
  | .pstSet c index value => Laws.RecordRoundTrip.pstSet c index value
  | .pstGetRange c index => Laws.RecordRoundTrip.pstGetRange c index
  | .sysWait c => Laws.RecordRoundTrip.sysWait c
  | .sysWdkick c => Laws.RecordRoundTrip.sysWdkick c
  | .sysSerial c => Laws.RecordRoundTrip.sysSerial c
  | .sysRestart c => Laws.RecordRoundTrip.sysRestart c

/-! ### Words, Reals and the context suffix -/

/-- A 32-bit value is its four bytes, most significant first (log entry 8). -/
theorem append_bytes (w : Word) :
    w.extractLsb' 24 8 ++ w.extractLsb' 16 8 ++ w.extractLsb' 8 8 ++ w.extractLsb' 0 8 = w := by
  ext k hk
  simp only [BitVec.getElem_append, BitVec.getElem_extractLsb']
  split_ifs
  all_goals
    rw [← BitVec.getLsbD_eq_getElem]
    congr 1
    omega

@[simp] theorem readWord_wordSyms (w : Word) (rest : List TraceSym) :
    readWord (wordSyms w ++ rest) = some (w, rest) :=
  congrArg (fun v => some (v, rest)) (append_bytes w)

@[simp] theorem readReal_real (q : RealNum) (rest : List TraceSym) :
    readReal (.real q :: rest) = some (q, rest) := rfl

/-- What follows a record cannot be taken for its context suffix. -/
def NoSuffix (l : List TraceSym) : Prop :=
  l.head? ≠ some .atInt

/-- The binary form can say the context of a record (R92). -/
def CtxWritten (op : Byte) (ctx : Ctx) : Prop :=
  (op = 0x10#8 ∨ op = 0x11#8) ∨ ctx = impliedCtx op

theorem impliedCtx_of_suffixed {op : Byte} (h : op = 0x10#8 ∨ op = 0x11#8) : impliedCtx op = .fg := by
  obtain rfl | rfl := h <;> rfl

theorem readCtx_of_noSuffix (op : Byte) {l : List TraceSym} (h : NoSuffix l) :
    readCtx op l = (impliedCtx op, l) := by
  unfold readCtx
  split
  · exact absurd rfl h
  · rfl

theorem readCtx_atInt {op : Byte} (h : op = 0x10#8 ∨ op = 0x11#8) (l : List TraceSym) :
    readCtx op (.atInt :: l) = (.int, l) :=
  if_pos h

/-- The suffix is written where the context is not the implied one, and then it is read as `int`. -/
theorem readCtx_ctxSyms {op : Byte} {ctx : Ctx} {rest : List TraceSym} (hc : CtxWritten op ctx)
    (hrest : NoSuffix rest) : readCtx op (ctxSyms op ctx ++ rest) = (ctx, rest) := by
  by_cases hop : op = 0x10#8 ∨ op = 0x11#8
  · cases ctx with
    | int => simpa [ctxSyms, hop] using readCtx_atInt hop rest
    | fg => simpa [ctxSyms, impliedCtx_of_suffixed hop] using readCtx_of_noSuffix op hrest
  · obtain rfl : ctx = impliedCtx op := hc.resolve_left hop
    simpa [ctxSyms, hop] using readCtx_of_noSuffix op hrest

/-! ### Records -/

/-- A record whose fields are those of a format, the unused ones 0 (R82). -/
inductive HasFormat : Format → Record → Prop
  | z (ctx : Ctx) (op : Byte) : HasFormat .z (recordZ ctx op)
  | a (ctx : Ctx) (op : Byte) (a : Word) : HasFormat .a (recordA ctx op a)
  | q (ctx : Ctx) (op : Byte) (q : RealNum) : HasFormat .q (recordQ ctx op q)
  | v (ctx : Ctx) (op : Byte) (a b : Word) : HasFormat .v (recordV ctx op a b)
  | p (ctx : Ctx) (op : Byte) (power high low : RealNum) (on off : Word) :
    HasFormat .p (recordP ctx op power high low on off)

/-- Every operation has a row, and is presented in the row's format (R85). -/
theorem encode_hasFormat (i : Instr) :
    ∃ row, opRow (encode i).op = some row ∧ HasFormat row.format (encode i) := by
  cases i with
  | acqShutdown | acqPeriod | speReset | speGetResult | csmShort | csmLong | csmTick | pstInit | pstResetAll
  | sysWait | sysWdkick | sysSerial | sysRestart => exact ⟨_, rfl, .z _ _⟩
  | acqInit | acqConv | acqTake | speFeed | csmInit | pstGet | pstGetRange => exact ⟨_, rfl, .a _ _ _⟩
  | speInit => exact ⟨_, rfl, .q _ _ _⟩
  | pstSet => exact ⟨_, rfl, .v _ _ _ _⟩
  | csmProcess => exact ⟨_, rfl, .p _ _ _ _ _ _ _⟩

/-- The fields of a format and the context suffix read back, with nothing taken of what follows. -/
theorem readFields_usedFields {f : Format} {r : Record} {rest : List TraceSym} (hf : HasFormat f r)
    (hc : CtxWritten r.op r.ctx) (hrest : NoSuffix rest) :
    readFields r.op f (((usedFields r f).flatMap fieldSyms ++ ctxSyms r.op r.ctx) ++ rest) = some (r, rest) := by
  have hctx := readCtx_ctxSyms hc hrest
  cases hf with
  | z | a | q | v | p =>
    simp only [readFields, usedFields, recordZ, recordA, recordQ, recordV, recordP] at hctx ⊢
    simp [fieldSyms, hctx]

theorem readRecord_recordSyms {r : Record} {row : OpRow} {rest : List TraceSym} (hrow : opRow r.op = some row)
    (hf : HasFormat row.format r) (hc : CtxWritten r.op r.ctx) (hrest : NoSuffix rest) :
    readRecord (recordSyms r ++ rest) = .ok (r, rest) := by
  simp only [recordSyms, hrow, List.cons_append, readRecord, readFields_usedFields hf hc hrest]

/-! ### Operations and traces -/

theorem encode_ctx (i : Instr) : (encode i).ctx = i.ctx := by
  cases i <;> rfl

theorem ctxWritten_of_traceable {i : Instr} (h : i.traceable = true) :
    CtxWritten (encode i).op (encode i).ctx := by
  rw [encode_ctx]
  cases i with
  | acqInit => exact .inl (.inl rfl)
  | acqShutdown => exact .inl (.inr rfl)
  | _ => exact .inr (of_decide_eq_true h)

/-- An operation in the binary trace begins with its code. -/
theorem encodeTrace_eq_cons (i : Instr) : ∃ l, encodeTrace i = .byte (encode i).op :: l := by
  obtain ⟨row, hrow, -⟩ := encode_hasFormat i
  exact ⟨_, by rw [encodeTrace, recordSyms, hrow]⟩

theorem noSuffix_flatMap_encodeTrace (is : List Instr) : NoSuffix (is.flatMap encodeTrace) := by
  cases is with
  | nil => nofun
  | cons i is =>
    obtain ⟨l, hl⟩ := encodeTrace_eq_cons i
    simp [NoSuffix, hl]

theorem readRecord_encodeTrace {i : Instr} {rest : List TraceSym} (h : i.traceable = true)
    (hrest : NoSuffix rest) : readRecord (encodeTrace i ++ rest) = .ok (encode i, rest) := by
  obtain ⟨_, hrow, hf⟩ := encode_hasFormat i
  exact readRecord_recordSyms hrow hf (ctxWritten_of_traceable h) hrest

/-- One turn of the reader: a record is read and decoded, and the reader goes on after it. -/
theorem readTraceFuel_encodeTrace {i : Instr} {rest : List TraceSym} (h : i.traceable = true)
    (hrest : NoSuffix rest) (fuel : Nat) :
    readTraceFuel (fuel + 1) (encodeTrace i ++ rest) = (readTraceFuel fuel rest).map (i :: ·) := by
  obtain ⟨l, hl⟩ := encodeTrace_eq_cons i
  have hread := readRecord_encodeTrace h hrest
  rw [hl, List.cons_append] at hread ⊢
  simp only [readTraceFuel, hread]
  show (decode (encode i) >>= fun j => readTraceFuel fuel rest >>= fun js => .ok (j :: js)) = _
  rw [decode_encode]
  cases readTraceFuel fuel rest <;> rfl

/-- Every operation takes a symbol at least, so a fuel of that many symbols lasts. -/
theorem readTraceFuel_flatMap_encodeTrace {is : List Instr} (h : ∀ i ∈ is, i.traceable = true) {fuel : Nat}
    (hfuel : (is.flatMap encodeTrace).length ≤ fuel) :
    readTraceFuel fuel (is.flatMap encodeTrace) = .ok is := by
  induction is generalizing fuel with
  | nil => cases fuel <;> rfl
  | cons i is ih =>
    obtain ⟨hi, his⟩ := List.forall_mem_cons.1 h
    obtain ⟨l, hl⟩ := encodeTrace_eq_cons i
    rw [List.flatMap_cons, List.length_append, hl, List.length_cons] at hfuel
    obtain ⟨fuel, rfl⟩ : ∃ k, fuel = k + 1 := ⟨fuel - 1, by omega⟩
    rw [List.flatMap_cons, readTraceFuel_encodeTrace hi (noSuffix_flatMap_encodeTrace is), ih his (by omega)]
    rfl

/-- Settles O2, by induction on the operations of the trace. -/
theorem traceRoundTrip : Obligations.TraceRoundTrip :=
  fun _ h => readTraceFuel_flatMap_encodeTrace h le_rfl

end Sys2Proof
end

section
/-! The codes of the operation map (R81, R85, R86): which they are, and how a record of each is decoded. -/

namespace Sys2Proof

/-- A code has a row exactly when it is the code of one (R86). -/
theorem opRow_eq_none_iff (op : Byte) : opRow op = none ↔ op ∉ opMap.map OpRow.code := by
  simp [opRow, List.find?_eq_none]

theorem opRow_eq_some {op : Byte} {row : OpRow} (h : opRow op = some row) : row ∈ opMap ∧ row.code = op :=
  ⟨List.mem_of_find?_eq_some h, by simpa using List.find?_some h⟩

/-- The codes of the map, unit by unit (R86): 5 of ACQ, 4 of SPE, 5 of CSM, 5 of PST, 4 of SYS, from 0 on. -/
theorem opRow_eq_none_iff_unit (op : Byte) : opRow op = none ↔
    (op.toNat / 16 = 0 ∨ 6 ≤ op.toNat / 16
      ∨ ((op.toNat / 16 = 1 ∨ op.toNat / 16 = 3 ∨ op.toNat / 16 = 4) ∧ 5 ≤ op.toNat % 16)
      ∨ ((op.toNat / 16 = 2 ∨ op.toNat / 16 = 5) ∧ 4 ≤ op.toNat % 16)) := by
  rw [opRow_eq_none_iff]
  revert op
  decide

/-- How a code of a format is decoded: the fields the format uses are read, in the order of R82, and the operation
is made of their values and the context; no other field is looked at (R88). -/
inductive DecodedBy (op : Byte) : Format → Prop
  | z (make : Ctx → Instr) (h : ∀ r : Record, decode { r with op := op } = .ok (make r.ctx)) : DecodedBy op .z
  | a (make : Ctx → Word → Instr)
    (h : ∀ r : Record, decode { r with op := op } = intField r.opa fun a => .ok (make r.ctx a)) : DecodedBy op .a
  | q (make : Ctx → RealNum → Instr)
    (h : ∀ r : Record, decode { r with op := op } = realField r.opa fun q => .ok (make r.ctx q)) : DecodedBy op .q
  | v (make : Ctx → Word → Word → Instr)
    (h : ∀ r : Record, decode { r with op := op } =
      intField r.opa fun a => intField r.opb fun b => .ok (make r.ctx a b)) : DecodedBy op .v
  | p (make : Ctx → RealNum → RealNum → RealNum → Word → Word → Instr)
    (h : ∀ r : Record, decode { r with op := op } =
      realField r.opa fun power => realField r.opb fun high => realField r.opc fun low =>
        intField r.opd fun on => intField r.ope fun off => .ok (make r.ctx power high low on off)) :
    DecodedBy op .p

/-- The operation map as the decoder follows it (R85): every row in its format. -/
theorem decodedBy_of_mem_opMap : ∀ row ∈ opMap, DecodedBy row.code row.format := by
  simp only [opMap, List.forall_mem_cons]
  exact
    ⟨.a .acqInit fun _ => rfl,
      .z .acqShutdown fun _ => rfl,
      .z .acqPeriod fun _ => rfl,
      .a .acqConv fun _ => rfl,
      .a .acqTake fun _ => rfl,
      .q .speInit fun _ => rfl,
      .a .speFeed fun _ => rfl,
      .z .speReset fun _ => rfl,
      .z .speGetResult fun _ => rfl,
      .a .csmInit fun _ => rfl,
      .p .csmProcess fun _ => rfl,
      .z .csmShort fun _ => rfl,
      .z .csmLong fun _ => rfl,
      .z .csmTick fun _ => rfl,
      .z .pstInit fun _ => rfl,
      .z .pstResetAll fun _ => rfl,
      .a .pstGet fun _ => rfl,
      .v .pstSet fun _ => rfl,
      .a .pstGetRange fun _ => rfl,
      .z .sysWait fun _ => rfl,
      .z .sysWdkick fun _ => rfl,
      .z .sysSerial fun _ => rfl,
      .z .sysRestart fun _ => rfl,
      nofun⟩

theorem decodedBy_of_opRow {op : Byte} {row : OpRow} (h : opRow op = some row) : DecodedBy op row.format := by
  obtain ⟨hmem, rfl⟩ := opRow_eq_some h
  exact decodedBy_of_mem_opMap row hmem

/-- Two records with one code, one context and the same used fields present the same operation (R88). -/
theorem decode_congr {r r' : Record} {f : Format} (hd : DecodedBy r.op f) (hctx : r'.ctx = r.ctx)
    (hop : r'.op = r.op) (hused : usedFields r' f = usedFields r f) : decode r' = decode r := by
  have hr' : { r' with op := r.op } = r' := by rw [← hop]
  rw [← hr']
  cases hd with
  | z make h =>
    rw [h r', hctx]
    exact (h r).symm
  | a make h | q make h =>
    have ha : r'.opa = r.opa := by simpa [usedFields] using hused
    rw [h r', hctx, ha]
    exact (h r).symm
  | v make h =>
    obtain ⟨ha, hb⟩ : r'.opa = r.opa ∧ r'.opb = r.opb := by simpa [usedFields] using hused
    rw [h r', hctx, ha, hb]
    exact (h r).symm
  | p make h =>
    obtain ⟨ha, hb, hc, hd, he⟩ : r'.opa = r.opa ∧ r'.opb = r.opb ∧ r'.opc = r.opc ∧ r'.opd = r.opd
        ∧ r'.ope = r.ope := by simpa [usedFields] using hused
    rw [h r', hctx, ha, hb, hc, hd, he]
    exact (h r).symm

/-! ### Illegal codes -/

/-- The record is not rejected for its code (R86): its fields may only be of the wrong kind. -/
def NotIllegal (d : Except DecodeError Instr) : Prop :=
  ∀ code, d ≠ .error (.illegalCommand code)

theorem notIllegal_ok (i : Instr) : NotIllegal (.ok i) :=
  fun _ => nofun

theorem notIllegal_intField {f : Field} {k : Word → Except DecodeError Instr} (h : ∀ v, NotIllegal (k v)) :
    NotIllegal (intField f k) := by
  cases f with
  | int v => exact h v
  | real => exact fun _ => nofun

theorem notIllegal_realField {f : Field} {k : RealNum → Except DecodeError Instr}
    (h : ∀ q, NotIllegal (k q)) : NotIllegal (realField f k) := by
  cases f with
  | real q => exact h q
  | int => exact fun _ => nofun

theorem notIllegal_decode {r : Record} {f : Format} (hd : DecodedBy r.op f) : NotIllegal (decode r) := by
  cases hd with
  | z make h => exact (h r).symm ▸ notIllegal_ok _
  | a make h => exact (h r).symm ▸ notIllegal_intField fun _ => notIllegal_ok _
  | q make h => exact (h r).symm ▸ notIllegal_realField fun _ => notIllegal_ok _
  | v make h =>
    exact (h r).symm ▸ notIllegal_intField fun _ => notIllegal_intField fun _ => notIllegal_ok _
  | p make h =>
    exact (h r).symm ▸ notIllegal_realField fun _ => notIllegal_realField fun _ => notIllegal_realField fun _ =>
      notIllegal_intField fun _ => notIllegal_intField fun _ => notIllegal_ok _

/-- Every arm of the decoder but the last is for a code of the map. -/
theorem decode_of_opRow_none {r : Record} (h : opRow r.op = none) :
    decode r = .error (.illegalCommand r.op) := by
  unfold decode
  split
  case h_24 => rfl
  all_goals
    next hop =>
      rw [hop] at h
      cases h

theorem decode_illegal_iff (r : Record) : decode r = .error (.illegalCommand r.op) ↔ opRow r.op = none := by
  refine ⟨fun h => ?_, decode_of_opRow_none⟩
  cases hrow : opRow r.op with
  | none => rfl
  | some row => exact absurd h (notIllegal_decode (decodedBy_of_opRow hrow) r.op)

end Sys2Proof
end

section
/-! A record at the head of the run (R71, R80): the step that presents it, what an illegal code answers (R86), and
the words of the operation map. -/

namespace Sys2Proof.Machine

/-- The head of the run is presented with no store reset in progress, or when it does not wait for it (R72). -/
theorem fetch_present {s : State} {r : Record} {rest : List Input} (hp : s.pending = .record r :: rest)
    (hw : s.job = none ∨ waitsForForeground r = false) : fetch s = .present r rest := by
  cases hj : s.job with
  | none => simp [fetch, hp, hj]
  | some j => simp [fetch, hp, hj, hw.resolve_left (by simp [hj])]

theorem step_of_decode_ok {s : State} {r : Record} {rest : List Input} {i : Instr} (h : fetch s = .present r rest)
    (hd : decode r = .ok i) : step s = exec i (s.withPending rest) := by
  simp only [step, h, hd]

theorem step_of_decode_error {s : State} {r : Record} {rest : List Input} {e : DecodeError}
    (h : fetch s = .present r rest) (hd : decode r = .error e) : step s = reject (s.withPending rest) e := by
  simp only [step, h, hd]

theorem reject_illegalCommand {s : State} (hc : wellFormed s.cfg = true) (code : Byte) :
    reject s (.illegalCommand code) = raiseError s (.illegalCommand code) := by
  simp [reject, hc]

/-- Settles O5: the record is the one presented, and it decodes to the operation. -/
theorem stepRunsTheDecodedOperation : Obligations.StepRunsTheDecodedOperation :=
  fun _ _ _ _ hp hw hd => step_of_decode_ok (fetch_present hp hw) hd

/-- Settles O3: an illegal record is rejected, and a named error writes the response alone; the decoder rejects
exactly the codes without a row, which the units of the map give. -/
theorem illegalCodesAnswerAndWriteNothing : Obligations.IllegalCodesAnswerAndWriteNothing := by
  refine ⟨fun s r rest hc hj hp hrow => ?_, opRow_eq_none_iff_unit, decode_illegal_iff⟩
  have hstep : step s = raiseError (s.withPending rest) (.illegalCommand r.op) :=
    (step_of_decode_error (fetch_present hp (.inl hj)) (decode_of_opRow_none hrow)).trans
      (reject_illegalCommand (s := s.withPending rest) hc r.op)
  exact ⟨_, hstep, rfl, ⟨rfl, rfl, rfl, rfl, rfl⟩, rfl, rfl, hj, rfl⟩

/-- Settles O1: the decoder run on each word. -/
theorem tableWordsDecode : Obligations.TableWordsDecode :=
  ⟨rfl, rfl, rfl, rfl, rfl, rfl, rfl, rfl⟩

end Sys2Proof.Machine
end

section
/-! The context of an operation (R85, R87): what the rows allow, and the refusal of any other. -/

namespace Sys2Proof

/-- Whether a row with these contexts allows a context (R85 column ctx). -/
def Contexts.allows : Contexts → Ctx → Bool
  | .fgOnly, c => c = .fg
  | .intOnly, c => c = .int
  | .either, _ | .any, _ => true

/-- `contextAllowed` is what the rows of the operation map say. -/
theorem contextAllowed_eq_allows {i : Instr} {row : OpRow} (h : opRow (encode i).op = some row) :
    i.contextAllowed = row.contexts.allows i.ctx := by
  cases i with
  | _ =>
    cases h
    rfl

end Sys2Proof

namespace Sys2Proof.Machine

section
variable {s : State} (hc : wellFormed s.cfg = true) (body : Result)
include hc

theorem foregroundOp_int : foregroundOp .int s body = .refused .wrongContext := by
  simp [foregroundOp, hc]

theorem foregroundEvent_int : foregroundEvent .int s body = .refused .wrongContext := by
  simp [foregroundEvent, hc]

theorem interruptOp_fg : interruptOp .fg s body = .refused .wrongContext := by
  simp [interruptOp, hc]

end

theorem ctx_eq_int_of_not_fg {c : Ctx} (h : decide (c = .fg) = false) : c = .int := by
  cases c with
  | fg => cases h
  | int => rfl

theorem ctx_eq_fg_of_not_int {c : Ctx} (h : decide (c = .int) = false) : c = .fg := by
  cases c with
  | fg => rfl
  | int => cases h

/-- The guard of an operation with a fixed context tests the context right after the configuration. -/
theorem exec_wrongContext {s : State} (hc : wellFormed s.cfg = true) {i : Instr}
    (h : i.contextAllowed = false) : exec i s = .refused .wrongContext := by
  cases i with
  | acqInit | acqShutdown | sysRestart => cases h
  | acqPeriod | acqConv | sysSerial =>
    obtain rfl := ctx_eq_fg_of_not_int h
    exact interruptOp_fg hc _
  | csmShort | csmLong =>
    obtain rfl := ctx_eq_int_of_not_fg h
    exact foregroundEvent_int hc _
  | acqTake | speInit | speFeed | speReset | speGetResult | csmInit | csmProcess | csmTick | pstInit
  | pstResetAll | pstGet | pstSet | pstGetRange | sysWait | sysWdkick =>
    obtain rfl := ctx_eq_int_of_not_fg h
    exact foregroundOp_int hc _

/-- Settles O7: the row does not allow the context, and the guard refuses it. -/
theorem wrongContextIsRefused : Obligations.WrongContextIsRefused := by
  intro i s row hc hrow hctx
  refine exec_wrongContext hc ?_
  rw [contextAllowed_eq_allows hrow]
  obtain ⟨hr, hi⟩ | ⟨hr, hi⟩ := hctx
  · rw [hr, hi]
    rfl
  · rw [hr, hi]
    rfl

end Sys2Proof.Machine
end

section
/-! Operands outside their ranges (R83, R88): a guard that is met lets the meaning's own range check decide. -/

namespace Sys2Proof.Machine

theorem foregroundOp_ready {s : State} (h : fgReady s) (body : Result) : foregroundOp .fg s body = body := by
  obtain ⟨hc, ha, hj⟩ := h
  simp [foregroundOp, hc, ha, hj]

theorem interruptOp_int {s : State} (hc : wellFormed s.cfg = true) (body : Result) :
    interruptOp .int s body = body := by
  simp [interruptOp, hc]

theorem eitherOp_ready {ctx : Ctx} {s : State} (h : readyIn ctx s) (body : Result) :
    eitherOp ctx s body = body := by
  obtain ⟨hc, hfg⟩ := h
  cases ctx with
  | int => simp [eitherOp, hc]
  | fg =>
    obtain ⟨ha, hj⟩ := hfg rfl
    simp [eitherOp, hc, ha, hj]

theorem readyIn_of_fgReady {s : State} (h : fgReady s) (ctx : Ctx) : readyIn ctx s :=
  ⟨h.1, fun _ => h.2⟩

/-- The modes of R34 are 0, 1 and 2; 3 is reserved and no other bit may be set (R88). -/
theorem modeOperand_eq_none {w : Word} (h : 3 ≤ w.toNat) : modeOperand w = none := by
  unfold modeOperand unsignedOperand
  split
  case h_4 => rfl
  all_goals omega

theorem exec_acqTake_outOfRange {s : State} {sel : Word} (h : fgReady s) (hsel : 4 ≤ sel.toNat) :
    exec (.acqTake .fg sel) s = .refused .operandOutOfRange :=
  (foregroundOp_ready h _).trans (if_pos hsel)

theorem exec_csmInit_outOfRange {s : State} {mode : Word} (h : fgReady s) (hmode : 3 ≤ mode.toNat) :
    exec (.csmInit .fg mode) s = .refused .operandOutOfRange := by
  refine (foregroundOp_ready h _).trans ?_
  rw [modeOperand_eq_none hmode]

theorem exec_acqInit_rateNotFS {s : State} {c : Ctx} {rate : Word} (h : readyIn c s)
    (hrate : rate.toNat ≠ s.cfg.fs) :
    exec (.acqInit c rate) s = .refused .rateNotFS :=
  (eitherOp_ready h _).trans (if_pos hrate)

theorem exec_acqConv_outOfRange {s : State} {raw : Word} (hc : wellFormed s.cfg = true)
    (hrun : s.acq.run = true) (hfe : s.acq.feEn = true) (hbusy : s.acq.convBusy = true)
    (hraw : inSigned s.cfg.rawBits raw.toInt = false) :
    exec (.acqConv .int raw) s = .refused .operandOutOfRange := by
  refine (interruptOp_int hc _).trans ?_
  simp [hrun, hfe, hbusy, signedOperand, hraw]

theorem exec_speFeed_outOfRange {s : State} {x : Word} (h : fgReady s)
    (hx : inSigned (dsBits s.cfg) x.toInt = false) : exec (.speFeed .fg x) s = .refused .operandOutOfRange :=
  (foregroundOp_ready h _).trans (if_pos hx)

theorem exec_csmProcess_outOfRange {s : State} {power high low : RealNum} {on off : Word} (h : fgReady s)
    (hd : (inUnsigned s.cfg.cntBits on.toNat && inUnsigned s.cfg.cntBits off.toNat) = false) :
    exec (.csmProcess .fg power high low on off) s = .refused .operandOutOfRange :=
  (foregroundOp_ready h _).trans (if_pos hd)

/-- The four operations with an operand whose range the configuration gives refuse what lies outside it. -/
theorem exec_operandOutsideRange {s : State} {i : Instr} (h : fgReady s) (hctx : i.contextAllowed = true)
    (hrange : i.operandsInRange s.cfg = false)
    (hconv : ∀ c raw, i = .acqConv c raw → s.acq.run = true ∧ s.acq.feEn = true ∧ s.acq.convBusy = true) :
    exec i s = .refused .operandOutOfRange ∨ exec i s = .refused .rateNotFS := by
  cases i with
  | acqInit c rate =>
    exact .inr (exec_acqInit_rateNotFS (readyIn_of_fgReady h c) (of_decide_eq_false hrange))
  | acqConv c raw =>
    obtain rfl : c = .int := of_decide_eq_true hctx
    obtain ⟨hrun, hfe, hbusy⟩ := hconv _ raw rfl
    exact .inl (exec_acqConv_outOfRange h.1 hrun hfe hbusy ((Bool.decide_and _ _).symm.trans hrange))
  | speFeed c x =>
    obtain rfl : c = .fg := of_decide_eq_true hctx
    exact .inl (exec_speFeed_outOfRange h ((Bool.decide_and _ _).symm.trans hrange))
  | csmProcess c power high low on off =>
    obtain rfl : c = .fg := of_decide_eq_true hctx
    exact .inl (exec_csmProcess_outOfRange h ((Bool.decide_and _ _).symm.trans hrange))
  | _ => cases hrange

/-- Settles O4: a record is decoded from its used fields alone, and each range check comes right after the guard. -/
theorem unusedFieldsIgnoredBadOperandsRefused : Obligations.UnusedFieldsIgnoredBadOperandsRefused :=
  ⟨fun _ _ _ hrow hctx hop hused => decode_congr (decodedBy_of_opRow hrow) hctx hop hused,
    fun _ _ => exec_acqTake_outOfRange, fun _ _ => exec_csmInit_outOfRange,
    fun _ _ => exec_operandOutsideRange⟩

end Sys2Proof.Machine
end

section
/-! ACQ from a state where an operation may be presented (R101 to R105): the next state each operation gives, and
when an event is not enabled. -/

namespace Sys2Proof.Machine

/-- A well-formed configuration has a prescaler that fits, so `ACQ.INIT` finds one (R10, R101). -/
theorem exists_timerChoice {c : Config} (h : wellFormed c = true) :
    ∃ p q, timerChoice c c.fs = some (p, q) := by
  obtain ⟨-, -, -, -, hsome, -⟩ := wellFormed_bounds h
  obtain ⟨⟨p, q⟩, hfit⟩ := Option.isSome_iff_exists.1 hsome
  exact ⟨p, q, hfit⟩

theorem exec_acqInit_ready {ctx : Ctx} {rate : Word} {s : State} (h : readyIn ctx s)
    (hrate : rate.toNat = s.cfg.fs) {p q : Nat} (hfit : timerChoice s.cfg s.cfg.fs = some (p, q)) :
    exec (.acqInit ctx rate) s = .next (answer (s.withAcq (initialised s.acq p q)) .none .none .none) := by
  refine (eitherOp_ready h _).trans ((if_neg (not_not.2 hrate)).trans ?_)
  rw [show unsignedOperand rate = s.cfg.fs from hrate, hfit]
  rfl

/-- Settles O11: the search succeeds in a well-formed configuration, and answers the first prescaler that fits. -/
theorem acqInitStartsAcquisition : Obligations.AcqInitStartsAcquisition := by
  refine ⟨fun ctx rate s h hrate => ?_, fun _ _ _ => exec_acqInit_rateNotFS⟩
  obtain ⟨p, q, hfit⟩ := exists_timerChoice h.1
  obtain ⟨before, after, hsplit, hbefore, rfl, hlo, hhi⟩ := firstFit_some hfit
  exact ⟨before, p, after, hsplit, hbefore, hlo, hhi, exec_acqInit_ready h hrate hfit⟩

/-- Settles O12: the guard is met, and the meaning is the update. -/
theorem acqShutdownClearsTheControlBits : Obligations.AcqShutdownClearsTheControlBits :=
  fun _ _ h => eitherOp_ready h _

theorem exec_acqPeriod_running {s : State} (hc : wellFormed s.cfg = true) (hrun : s.acq.run = true) :
    exec (.acqPeriod .int) s = .next (answer
      (s.withAcq { s.acq with feEn := true, newConv := .written true }).wake .none .none .none) :=
  (interruptOp_int hc _).trans (if_neg (by simp [hrun]))

theorem exec_acqPeriod_stopped {s : State} (hc : wellFormed s.cfg = true) (hrun : s.acq.run = false) :
    exec (.acqPeriod .int) s = .fault .eventNotEnabled :=
  (interruptOp_int hc _).trans (if_pos hrun)

/-- Settles O13: the period is enabled exactly while acquisition runs. -/
theorem acqPeriodEnablesTheFrontEnd : Obligations.AcqPeriodEnablesTheFrontEnd :=
  fun _ hc => ⟨exec_acqPeriod_running hc, exec_acqPeriod_stopped hc⟩

theorem exec_acqConv_notEnabled {s : State} (hc : wellFormed s.cfg = true) (raw : Word)
    (h : s.acq.run = false ∨ s.acq.feEn = false ∨ s.acq.convBusy = false) :
    exec (.acqConv .int raw) s = .fault .eventNotEnabled :=
  (interruptOp_int hc _).trans (if_pos (by simpa [Bool.and_eq_false_iff, or_assoc, -Bool.and_eq_false_imp] using h))

/-- A raw sample is at most 16 bits wide (R9), so taking its low 16 bits loses nothing. -/
theorem sext_sample {c : Config} (hc : wellFormed c = true) {v : Int} (h : inSigned c.rawBits v = true) :
    sext 16 v = v := by
  obtain ⟨-, hr16, -⟩ := wellFormed_bounds hc
  exact sext_of_inSigned (by norm_num) hr16 h

theorem exec_acqConv_enabled {raw : Word} {s : State} (hc : wellFormed s.cfg = true) (hrun : s.acq.run = true)
    (hfe : s.acq.feEn = true) (hbusy : s.acq.convBusy = true) (hraw : inSigned s.cfg.rawBits raw.toInt = true)
    {sum : Int} {cnt : BitVec 4} (hsum : s.acq.sum = .written sum) (hcnt : s.acq.cnt = .written cnt) :
    exec (.acqConv .int raw) s = .next (answer
      (s.withAcq (converted s.acq (sum + raw.toInt) (cnt + 1))).wake .none .none .none) := by
  refine (interruptOp_int hc _).trans ?_
  simp only [hrun, hfe, hbusy, hraw, hsum, hcnt, signedOperand, readElement, sext_sample hc hraw]
  rfl

/-- The conversion counter wraps on the sixteenth conversion only (R25, R104). -/
theorem converted_succ (a : Acq) (sum : Int) (cnt : BitVec 4) :
    converted a sum (cnt + 1) =
      if cnt = 15 then
        { a with
          convBusy := false, cnt := .written 0, value := .written (sum / 4), newValue := .written true,
          sum := .written 0, feEn := false }
      else { a with convBusy := false, cnt := .written (cnt + 1), sum := .written sum } := by
  have hwrap : cnt + 1 = 0 ↔ cnt = 15 := by bv_omega
  by_cases hlast : cnt = 15
  · rw [if_pos hlast, hwrap.2 hlast]
    rfl
  · rw [if_neg hlast, converted, if_neg (mt hwrap.1 hlast)]

/-- Settles O14: an enabled conversion adds its sample, and the counter wraps on the sixteenth. -/
theorem acqConvAccumulatesAndPublishes : Obligations.AcqConvAccumulatesAndPublishes := by
  refine fun raw s hc => ⟨fun sum cnt hrun hfe hbusy hlo hhi hsum hcnt => ?_, exec_acqConv_notEnabled hc raw⟩
  rw [exec_acqConv_enabled hc hrun hfe hbusy (inSigned_iff.2 ⟨hlo, hhi⟩) hsum hcnt, converted_succ]
  rfl

/-- A selected flag that is written is read; one that is not selected counts as clear (R105). -/
theorem readSelected_written {sel n : Bool} {e : Element Bool} (h : sel = true → e = .written n)
    (name : String) (k : Bool → Result) : readSelected sel e name k = k (sel && n) := by
  cases sel with
  | true => rw [h rfl]; rfl
  | false => rfl

theorem exists_written_of_selected {sel : Bool} {e : Element Bool} (h : ¬ (sel = true ∧ e = .unwritten)) :
    ∃ n, sel = true → e = .written n := by
  cases e with
  | unwritten => exact ⟨false, fun hs => (h ⟨hs, rfl⟩).elim⟩
  | written n => exact ⟨n, fun _ => rfl⟩

theorem readSelected_unwritten {sel : Bool} {e : Element Bool} (hsel : sel = true) (h : e = .unwritten)
    (name : String) (k : Bool → Result) : readSelected sel e name k = .refused (.unwrittenElement name) := by
  subst hsel h
  rfl

theorem exec_acqTake_ready {s : State} {sel : Word} {n0 n1 : Bool} {v : Int} (h : fgReady s)
    (hsel : sel.toNat < 4) (h0 : selects sel 0 = true → s.acq.newValue = .written n0)
    (h1 : selects sel 1 = true → s.acq.newConv = .written n1)
    (hv : selects sel 0 = true → n0 = true → s.acq.value = .written v) :
    exec (.acqTake .fg sel) s = .next (answer (s.withAcq
      { s.acq with
        newValue := takenFlag (selects sel 0) s.acq.newValue,
        newConv := takenFlag (selects sel 1) s.acq.newConv })
      (.bits 2 (packFlags (selects sel 1 && n1) (selects sel 0 && n0)))
      (if selects sel 0 && n0 then .int (sext 32 v) else Config.freeResponse s.epoch 1) .none) := by
  refine (foregroundOp_ready h _).trans ((if_neg (Nat.not_le.2 hsel)).trans ?_)
  simp only [readSelected_written h0, readSelected_written h1]
  cases htaken : selects sel 0 && n0 with
  | true =>
    obtain ⟨hs, hn⟩ := Bool.and_eq_true_iff.1 htaken
    rw [hv hs hn]
    rfl
  | false => rfl

theorem exec_acqTake_unwritten {s : State} {sel : Word} (h : fgReady s) (hsel : sel.toNat < 4)
    (hun : selects sel 0 = true ∧ s.acq.newValue = .unwritten
      ∨ selects sel 1 = true ∧ s.acq.newConv = .unwritten) :
    ∃ name, exec (.acqTake .fg sel) s = .refused (.unwrittenElement name) := by
  by_cases hfirst : selects sel 0 = true ∧ s.acq.newValue = .unwritten
  · refine ⟨"ACQ.NEW_VALUE", (foregroundOp_ready h _).trans ((if_neg (Nat.not_le.2 hsel)).trans ?_)⟩
    exact readSelected_unwritten hfirst.1 hfirst.2 _ _
  · obtain ⟨hs, hn⟩ := hun.resolve_left hfirst
    obtain ⟨n0, h0⟩ := exists_written_of_selected hfirst
    refine ⟨"ACQ.NEW_CONV", (foregroundOp_ready h _).trans ((if_neg (Nat.not_le.2 hsel)).trans ?_)⟩
    exact (readSelected_written h0 _ _).trans (readSelected_unwritten hs hn _ _)

/-- Settles O15: a written selected flag is read and cleared, an unwritten one is refused. -/
theorem acqTakeReadsAndClears : Obligations.AcqTakeReadsAndClears :=
  ⟨fun _ _ _ _ _ => exec_acqTake_ready, fun _ _ => exec_acqTake_unwritten⟩

end Sys2Proof.Machine
end

section
/-! Traces of operations and the control bits of ACQ: what a trace changes, one of its operations changes, so a
conversion needs a period and a wait (R110, R111); repeating `ACQ.INIT` or `ACQ.SHUTDOWN` changes nothing (R109). -/

namespace Sys2Proof.Machine

/-- What holds before a trace and not after it stops holding at one of its operations. -/
theorem execAll_crossing {P : State → Prop} {is : List Instr} {s t : State} (h : execAll is s = .next t)
    (hs : P s) (ht : ¬ P t) :
    ∃ before i after u v, is = before ++ i :: after ∧ exec i u = .next v ∧ execAll after v = .next t
      ∧ P u ∧ ¬ P v := by
  induction is generalizing s with
  | nil =>
    cases h
    exact absurd hs ht
  | cons i is ih =>
    obtain ⟨w, hi, his⟩ := execAll_cons_next.1 h
    by_cases hw : P w
    · obtain ⟨before, j, after, u, v, rfl, hrest⟩ := ih his hw
      exact ⟨i :: before, j, after, u, v, rfl, hrest⟩
    · exact ⟨[], i, is, s, w, rfl, hi, his, hs, hw⟩

/-- No trace changes the configuration (R23). -/
theorem execAll_cfg {is : List Instr} {s t : State} (h : execAll is s = .next t) : t.cfg = s.cfg := by
  by_contra hne
  obtain ⟨_, _, _, u, v, -, hi, -, hu, hv⟩ := execAll_crossing (P := fun u => u.cfg = s.cfg) h rfl hne
  exact hv ((exec_frame hi).cfg.trans hu)

/-! ### Which operation sets a control bit -/

@[simp] theorem converted_run (a : Acq) (v : Int) (k : BitVec 4) : (converted a v k).run = a.run := by
  unfold converted
  split <;> rfl

@[simp] theorem converted_convBusy (a : Acq) (v : Int) (k : BitVec 4) :
    (converted a v k).convBusy = false := by
  unfold converted
  split <;> rfl

theorem of_converted_feEn {a : Acq} {v : Int} {k : BitVec 4} (h : (converted a v k).feEn = true) :
    a.feEn = true := by
  unfold converted at h
  split at h
  · cases h
  · exact h

section
variable {c : Config} {a a' : Acq} {i : Instr}

/-- Only `ACQ.INIT` starts acquisition (R28). -/
theorem AcqStep.init_of_run (h : AcqStep c a i a') (hrun : a'.run = true) :
    a.run = true ∨ ∃ x rate, i = .acqInit x rate := by
  cases h with
  | init x rate => exact .inr ⟨x, rate, rfl⟩
  | conv => exact .inl (by simpa using hrun)
  | shutdown | restart => cases hrun
  | kept | period | take | wait => exact .inl hrun

/-- Only `ACQ.PERIOD` enables the front end (R28). -/
theorem AcqStep.period_of_feEn (h : AcqStep c a i a') (hfe : a'.feEn = true) :
    a.feEn = true ∨ ∃ x, i = .acqPeriod x := by
  cases h with
  | period x => exact .inr ⟨x, rfl⟩
  | conv => exact .inl (of_converted_feEn hfe)
  | init | shutdown | restart => cases hfe
  | kept | take | wait => exact .inl hfe

/-- Only `SYS.WAIT` starts a conversion, and only with the front end enabled (R28, R181). -/
theorem AcqStep.wait_of_convBusy (h : AcqStep c a i a') (hbusy : a'.convBusy = true) :
    a.convBusy = true ∨ a.feEn = true ∧ ∃ x, i = .sysWait x := by
  cases h with
  | wait x => exact (Bool.or_eq_true_iff.1 hbusy).imp_right fun hst => ⟨startsConversion_feEn hst, x, rfl⟩
  | conv => simp at hbusy
  | init | shutdown | restart => cases hbusy
  | kept | period | take => exact .inl hbusy

end

/-- A trace after which a conversion is in progress, and not before it, holds a wait. -/
theorem execAll_wait_of_convBusy {is : List Instr} {s t : State} (h : execAll is s = .next t)
    (hs : s.acq.convBusy = false) (ht : t.acq.convBusy = true) :
    ∃ before after x, is = before ++ .sysWait x :: after := by
  obtain ⟨before, i, after, u, v, rfl, hi, -, hu, hv⟩ :=
    execAll_crossing (P := fun u => u.acq.convBusy = false) h hs (by simp [ht])
  obtain hbusy | ⟨-, x, rfl⟩ := (exec_acqStep hi).wait_of_convBusy (by simpa using hv)
  · simp [hbusy] at hu
  · exact ⟨before, after, x, rfl⟩

/-- From a disabled front end a conversion comes to be in progress by a period and a later wait. -/
theorem execAll_period_wait_of_convBusy {is : List Instr} {s t : State} (h : execAll is s = .next t)
    (hfe : s.acq.feEn = false) (hs : s.acq.convBusy = false) (ht : t.acq.convBusy = true) :
    ∃ a b c x y, is = a ++ .acqPeriod x :: (b ++ .sysWait y :: c) := by
  obtain ⟨a, i, rest, u, v, rfl, hi, hrest, ⟨hufe, hu⟩, hv⟩ :=
    execAll_crossing (P := fun u => u.acq.feEn = false ∧ u.acq.convBusy = false) h ⟨hfe, hs⟩ (by simp [ht])
  have hvbusy : v.acq.convBusy = false := by
    by_contra hb
    obtain hbusy | ⟨hen, -⟩ := (exec_acqStep hi).wait_of_convBusy (by simpa using hb)
    · simp [hbusy] at hu
    · simp [hen] at hufe
  obtain hen | ⟨x, rfl⟩ := (exec_acqStep hi).period_of_feEn (by simpa [hvbusy] using hv)
  · simp [hen] at hufe
  · obtain ⟨b, c, y, rfl⟩ := execAll_wait_of_convBusy hrest hvbusy ht
    exact ⟨a, b, c, x, y, rfl⟩

/-- A trace without `ACQ.INIT` starts no acquisition. -/
theorem execAll_stopped {is : List Instr} {s t : State} (h : execAll is s = .next t)
    (hinit : ∀ i ∈ is, ∀ c rate, i ≠ .acqInit c rate) (hs : s.acq.run = false) : t.acq.run = false := by
  by_contra ht
  obtain ⟨_, i, _, u, v, rfl, hi, -, hu, hv⟩ := execAll_crossing (P := fun u => u.acq.run = false) h hs ht
  obtain hrun | ⟨c, rate, rfl⟩ := (exec_acqStep hi).init_of_run (by simpa using hv)
  · simp [hrun] at hu
  · exact hinit _ (by simp) c rate rfl

/-- Settles O18: a shutdown stops acquisition until an init; an init leaves no conversion in progress and the front
end disabled. -/
theorem noStaleCompletion : Obligations.NoStaleCompletion := by
  constructor
  · intro ctx is s t hinit h
    obtain ⟨u, hshut, his⟩ := execAll_cons_next.1 h
    have hc : wellFormed t.cfg = true := by
      rw [execAll_cfg h]
      exact exec_next_wellFormed hshut
    obtain ⟨-, -, rfl⟩ := exec_acqShutdown_next hshut
    have hrun : t.acq.run = false := execAll_stopped his hinit rfl
    exact ⟨exec_acqPeriod_stopped hc hrun, fun raw => exec_acqConv_notEnabled hc raw (.inl hrun)⟩
  · intro ctx rate raw is s t u h hconv
    obtain ⟨v, hinit, his⟩ := execAll_cons_next.1 h
    obtain ⟨-, -, -, _, _, -, rfl⟩ := exec_acqInit_next hinit
    obtain ⟨-, -, -, -, hbusy, -⟩ := exec_acqConv_next hconv
    exact execAll_period_wait_of_convBusy his rfl rfl hbusy

/-- Settles O19: a conversion ends the one in progress, and only a wait starts another. -/
theorem oneConversionPerWait : Obligations.OneConversionPerWait := by
  intro s t is c c' raw raw' h
  obtain ⟨u, hrun, hlast⟩ := execAll_append_next.1 h
  obtain ⟨v, hfirst, his⟩ := execAll_cons_next.1 hrun
  obtain ⟨_, hconv, -⟩ := execAll_cons_next.1 hlast
  obtain ⟨-, -, -, -, -, -, _, _, -, -, rfl⟩ := exec_acqConv_next hfirst
  obtain ⟨-, -, -, -, hbusy, -⟩ := exec_acqConv_next hconv
  obtain ⟨before, after, x, rfl⟩ := execAll_wait_of_convBusy his (converted_convBusy _ _ _) hbusy
  exact ⟨x, by simp⟩

/-! ### Repeated operations -/

/-- What `ACQ.INIT` leaves in ACQ depends on the configuration and on the value it keeps, and on nothing else. -/
theorem exec_acqInit_acq_congr {c c' : Ctx} {rate rate' : Word} {s s' t t' : State}
    (h : exec (.acqInit c rate) s = .next t) (h' : exec (.acqInit c' rate') s' = .next t')
    (hcfg : s'.cfg = s.cfg) (hvalue : s'.acq.value = s.acq.value) : t'.acq = t.acq := by
  obtain ⟨-, -, -, p, q, hfit, rfl⟩ := exec_acqInit_next h
  obtain ⟨-, -, -, p', q', hfit', rfl⟩ := exec_acqInit_next h'
  rw [hcfg, hfit] at hfit'
  cases hfit'
  simp [answer, hvalue]

/-- `ACQ.INIT` writes ACQ alone and keeps the value (R101). -/
theorem exec_acqInit_frame {c : Ctx} {rate : Word} {s t : State} (h : exec (.acqInit c rate) s = .next t) :
    t.acq.value = s.acq.value ∧ t.spe = s.spe ∧ t.csm = s.csm ∧ t.asleep = s.asleep ∧ t.nvm = s.nvm := by
  obtain ⟨-, -, -, _, _, -, rfl⟩ := exec_acqInit_next h
  exact ⟨rfl, rfl, rfl, rfl, rfl⟩

theorem exec_acqInit_idempotent {c c' : Ctx} {rate : Word} {s t u : State}
    (ht : exec (.acqInit c rate) s = .next t) (hu : exec (.acqInit c' rate) t = .next u) : sameBlock t u :=
  ⟨exec_acqInit_acq_congr ht hu (exec_frame ht).cfg (exec_acqInit_frame ht).1, (exec_acqInit_frame hu).2⟩

theorem exec_acqShutdown_idempotent {c c' : Ctx} {s t u : State} (ht : exec (.acqShutdown c) s = .next t)
    (hu : exec (.acqShutdown c') t = .next u) : sameBlock t u := by
  obtain ⟨-, -, rfl⟩ := exec_acqShutdown_next ht
  obtain ⟨-, -, rfl⟩ := exec_acqShutdown_next hu
  exact ⟨rfl, rfl, rfl, rfl, rfl⟩

theorem execAll_period_init_acq {c c' : Ctx} {rate : Word} {s t u : State}
    (ht : exec (.acqInit c rate) s = .next t)
    (hu : execAll [.acqPeriod .int, .acqInit c' rate] t = .next u) : u.acq = t.acq := by
  obtain ⟨v, hperiod, hrest⟩ := execAll_cons_next.1 hu
  obtain ⟨w, hinit, hnil⟩ := execAll_cons_next.1 hrest
  cases hnil
  obtain ⟨-, -, -, rfl⟩ := exec_acqPeriod_next hperiod
  exact exec_acqInit_acq_congr ht hinit (exec_frame ht).cfg (exec_acqInit_frame ht).1

theorem execAll_shutdown_init_group {c c' : Ctx} {rate : Word} {s u : State}
    (h : execAll [.acqShutdown c, .acqInit c' rate] s = .next u) :
    u.acq.sum = .written 0 ∧ u.acq.cnt = .written 0 := by
  obtain ⟨v, -, hrest⟩ := execAll_cons_next.1 h
  obtain ⟨w, hinit, hnil⟩ := execAll_cons_next.1 hrest
  cases hnil
  obtain ⟨-, -, -, _, _, -, rfl⟩ := exec_acqInit_next hinit
  exact ⟨rfl, rfl⟩

/-- Settles O20: an init depends only on the configuration and the value, a shutdown clears what is clear. -/
theorem acqInitAndShutdownAreIdempotent : Obligations.AcqInitAndShutdownAreIdempotent :=
  ⟨fun _ _ _ _ _ _ => exec_acqInit_idempotent, fun _ _ _ _ _ => exec_acqShutdown_idempotent,
    fun _ _ _ _ _ _ => execAll_period_init_acq, fun _ _ _ _ _ => execAll_shutdown_init_group⟩

end Sys2Proof.Machine
end

section
/-! A group of sixteen conversions (R106): how far it has come, in any trace that does not end it, and that the
plain sequence of a period and sixteen waits and conversions completes. -/

namespace Sys2Proof.Machine

/-- The group has come to `n` conversions, whose samples have the sum `v` (R24, R25). -/
def GroupAt (a : Acq) (n : Nat) (v : Int) : Prop :=
  a.sum = .written v ∧ a.cnt = .written (BitVec.ofNat 4 n)

theorem groupAt_zero {a : Acq} (hsum : a.sum = .written 0) (hcnt : a.cnt = .written 0) : GroupAt a 0 0 :=
  ⟨hsum, hcnt⟩

theorem converted_before_sixteenth (a : Acq) (v : Int) {n : Nat} (hn : n < 15) :
    converted a v (BitVec.ofNat 4 n + 1)
      = { a with convBusy := false, cnt := .written (BitVec.ofNat 4 (n + 1)), sum := .written v } := by
  have hmore : BitVec.ofNat 4 n ≠ 15 := by
    bv_omega
  rw [converted_succ, if_neg hmore, BitVec.ofNat_add]
  rfl

theorem converted_sixteenth (a : Acq) (v : Int) :
    converted a v (BitVec.ofNat 4 15 + 1)
      = { a with
          convBusy := false, cnt := .written 0, value := .written (v / 4), newValue := .written true,
          sum := .written 0, feEn := false } :=
  (converted_succ a v 15).trans (if_pos rfl)

/-! ### Any trace that does not end the group -/

theorem rawSamples_acqConv_cons (c : Ctx) (raw : Word) (is : List Instr) :
    rawSamples (.acqConv c raw :: is) = raw.toInt :: rawSamples is := rfl

theorem rawSamples_cons_of_not_conv {i : Instr} (h : ∀ c raw, i ≠ .acqConv c raw) (is : List Instr) :
    rawSamples (i :: is) = rawSamples is := by
  cases i with
  | acqConv c raw => exact (h c raw rfl).elim
  | _ => rfl

/-- An operation that neither converts nor ends the group leaves its sum and count. -/
theorem AcqStep.keeps_group {c : Config} {a a' : Acq} {i : Instr} (h : AcqStep c a i a')
    (hends : endsGroup i = false) (hconv : ∀ x raw, i ≠ .acqConv x raw) :
    a'.sum = a.sum ∧ a'.cnt = a.cnt := by
  cases h with
  | init | shutdown | restart => cases hends
  | conv x raw => exact (hconv x raw rfl).elim
  | kept | period | take | wait => exact ⟨rfl, rfl⟩

/-- A conversion adds its raw sample to the sum and one to the count (R104). -/
theorem exec_acqConv_acq {c : Ctx} {raw : Word} {s t : State} {v : Int} {n : Nat}
    (h : exec (.acqConv c raw) s = .next t) (hg : GroupAt s.acq n v) :
    t.acq = converted s.acq (v + raw.toInt) (BitVec.ofNat 4 n + 1) := by
  obtain ⟨hc, -, -, -, -, hraw, sum, cnt, hsum, hcnt, rfl⟩ := exec_acqConv_next h
  obtain ⟨hv, hn⟩ := hg
  cases hsum.symm.trans hv
  cases hcnt.symm.trans hn
  rw [sext_sample hc hraw]
  rfl

/-- Fewer than sixteen conversions move the group on by their number and their sum. -/
theorem execAll_groupAt {is : List Instr} {s t : State} {n : Nat} {v : Int} (h : execAll is s = .next t)
    (hends : ∀ i ∈ is, endsGroup i = false) (hg : GroupAt s.acq n v) (hn : n + (rawSamples is).length ≤ 15) :
    GroupAt t.acq (n + (rawSamples is).length) (v + (rawSamples is).sum) := by
  induction is generalizing s n v with
  | nil =>
    cases h
    simpa [rawSamples] using hg
  | cons i is ih =>
    obtain ⟨u, hi, his⟩ := execAll_cons_next.1 h
    obtain ⟨hendi, hendis⟩ := List.forall_mem_cons.1 hends
    by_cases hconv : ∃ c raw, i = .acqConv c raw
    · obtain ⟨c, raw, rfl⟩ := hconv
      rw [rawSamples_acqConv_cons, List.length_cons] at hn
      have hu : GroupAt u.acq (n + 1) (v + raw.toInt) := by
        rw [exec_acqConv_acq hi hg, converted_before_sixteenth _ _ (by omega)]
        exact ⟨rfl, rfl⟩
      rw [rawSamples_acqConv_cons, List.length_cons, List.sum_cons, ← Nat.add_assoc,
        Nat.add_right_comm, ← Int.add_assoc]
      exact ih his hendis hu (by omega)
    · have hother : ∀ c raw, i ≠ .acqConv c raw := fun c raw he => hconv ⟨c, raw, he⟩
      rw [rawSamples_cons_of_not_conv hother] at hn ⊢
      obtain ⟨hsum, hcnt⟩ := (exec_acqStep hi).keeps_group hendi hother
      exact ih his hendis ⟨hsum.trans hg.1, hcnt.trans hg.2⟩ hn

/-- Settles O16: fifteen conversions bring the group to the count 15, and the next one publishes. -/
theorem sixteenConversionsPublishTheirSum : Obligations.SixteenConversionsPublishTheirSum := by
  intro s t is ctx raw hsum hcnt hends hlen h
  obtain ⟨u, his, hlast⟩ := execAll_append_next.1 h
  obtain ⟨w, hconv, hnil⟩ := execAll_cons_next.1 hlast
  cases hnil
  have hg := execAll_groupAt his hends (groupAt_zero hsum hcnt) (by omega)
  rw [hlen, Nat.zero_add, zero_add] at hg
  rw [exec_acqConv_acq hconv hg, converted_sixteenth]
  exact ⟨rfl, rfl, rfl, rfl, rfl, rfl⟩

/-! ### The plain sequence completes -/

/-- A wait and the conversion of one raw sample, as the plain sequence presents them (R91). -/
def waitAndConvert (raw : Word) : List Instr :=
  [.sysWait .fg, .acqConv .int raw]

theorem groupOps_eq (raws : List Word) : groupOps raws = .acqPeriod .int :: raws.flatMap waitAndConvert := rfl

/-- Between two conversions of a group: the foreground is ready, the front end enabled, no conversion in progress. -/
structure BetweenConversions (s : State) (n : Nat) (v : Int) : Prop where
  ready : fgReady s
  run : s.acq.run = true
  feEn : s.acq.feEn = true
  idle : s.acq.convBusy = false
  group : GroupAt s.acq n v

/-- A wait between two conversions starts the next one (R181). -/
theorem exec_sysWait_between {s : State} {n : Nat} {v : Int} (h : BetweenConversions s n v) :
    ∃ u, exec (.sysWait .fg) s = .next u ∧ u.cfg = s.cfg ∧ u.job = s.job
      ∧ u.acq = { s.acq with convBusy := true } := by
  obtain ⟨hready, hrun, hfe, hidle, -⟩ := h
  have hstart : startsConversion s.acq = true := by
    simp [startsConversion, hrun, hfe, hidle]
  refine ⟨_, foregroundOp_ready hready _, rfl, rfl, ?_⟩
  simp [hstart]

theorem converted_of_convBusy (a : Acq) (b : Bool) (v : Int) (k : BitVec 4) :
    converted { a with convBusy := b } v k = converted a v k := rfl

/-- The conversion that a wait started adds its sample, and the foreground is awake again. -/
theorem execAll_waitAndConvert {s : State} {n : Nat} {v : Int} (h : BetweenConversions s n v) {raw : Word}
    (hraw : inSigned s.cfg.rawBits raw.toInt = true) :
    ∃ t, execAll (waitAndConvert raw) s = .next t ∧ fgReady t ∧ t.cfg = s.cfg
      ∧ t.acq = converted s.acq (v + raw.toInt) (BitVec.ofNat 4 n + 1) := by
  obtain ⟨u, hwait, hcfg, hjob, hacq⟩ := exec_sysWait_between h
  obtain ⟨⟨hc, -, hidle⟩, hrun, hfe, -, hsum, hcnt⟩ := h
  have hcu : wellFormed u.cfg = true := by rwa [hcfg]
  have hconv := exec_acqConv_enabled (s := u) hcu (by rwa [hacq]) (by rwa [hacq]) (by rw [hacq])
    (by rwa [hcfg]) (by rwa [hacq]) (by rwa [hacq])
  refine ⟨_, execAll_cons_next.2 ⟨u, hwait, execAll_cons_next.2 ⟨_, hconv, rfl⟩⟩,
    ⟨hcu, rfl, hjob.trans hidle⟩, hcfg, ?_⟩
  rw [hacq, converted_of_convBusy]
  rfl

theorem execAll_partialGroup {raws : List Word} {s : State} {n : Nat} {v : Int} (h : BetweenConversions s n v)
    (hraws : ∀ w ∈ raws, inSigned s.cfg.rawBits w.toInt = true) (hn : n + raws.length ≤ 15) :
    ∃ t, execAll (raws.flatMap waitAndConvert) s = .next t ∧ t.cfg = s.cfg
      ∧ BetweenConversions t (n + raws.length) (v + (raws.map BitVec.toInt).sum)
      ∧ t.acq.newValue = s.acq.newValue ∧ t.acq.value = s.acq.value := by
  induction raws generalizing s n v with
  | nil => exact ⟨s, rfl, rfl, by simpa using h, rfl, rfl⟩
  | cons raw raws ih =>
    rw [List.length_cons] at hn
    obtain ⟨hraw, hrest⟩ := List.forall_mem_cons.1 hraws
    obtain ⟨u, hu, hready, hcfg, hacq⟩ := execAll_waitAndConvert h hraw
    rw [converted_before_sixteenth _ _ (by omega)] at hacq
    have hbetween : BetweenConversions u (n + 1) (v + raw.toInt) :=
      { ready := hready
        run := by rw [hacq]; exact h.run
        feEn := by rw [hacq]; exact h.feEn
        idle := by rw [hacq]
        group := by rw [hacq]; exact ⟨rfl, rfl⟩ }
    obtain ⟨t, ht, htcfg, hg, hnv, hval⟩ := ih hbetween (by rwa [hcfg]) (by omega)
    refine ⟨t, ?_, htcfg.trans hcfg, ?_, hnv.trans (by rw [hacq]), hval.trans (by rw [hacq])⟩
    · rw [List.flatMap_cons]
      exact execAll_append_next.2 ⟨u, hu, ht⟩
    · rw [List.length_cons, List.map_cons, List.sum_cons, ← Nat.add_assoc, Nat.add_right_comm,
        ← Int.add_assoc]
      exact hg

/-- The sixteenth conversion publishes the floor of a quarter of the group's sum (R104). -/
theorem execAll_fullGroup {raws : List Word} {s : State} (h : BetweenConversions s 0 0)
    (hraws : ∀ w ∈ raws, inSigned s.cfg.rawBits w.toInt = true) (hlen : raws.length = 16) :
    ∃ t, execAll (raws.flatMap waitAndConvert) s = .next t ∧ t.acq.newValue = .written true
      ∧ t.acq.value = .written ((raws.map BitVec.toInt).sum / 4) := by
  obtain rfl | ⟨first, last, rfl⟩ := List.eq_nil_or_concat' raws
  · cases hlen
  rw [List.length_append, List.length_singleton] at hlen
  obtain ⟨hfirst, hlast⟩ := List.forall_mem_append.1 hraws
  obtain ⟨u, hu, hcfg, hbetween, -⟩ := execAll_partialGroup h hfirst (by omega)
  rw [show 0 + first.length = 15 by omega, zero_add] at hbetween
  obtain ⟨t, ht, -, -, hacq⟩ := execAll_waitAndConvert hbetween (raw := last) (by simpa [hcfg] using hlast)
  rw [converted_sixteenth] at hacq
  refine ⟨t, ?_, by rw [hacq], by simp [hacq]⟩
  rw [List.flatMap_append, List.flatMap_singleton]
  exact execAll_append_next.2 ⟨u, hu, ht⟩

theorem quarter_of_sixteen_equal {raws : List Word} {k : Int} (hlen : raws.length = 16)
    (hk : ∀ w ∈ raws, w.toInt = k) : (raws.map BitVec.toInt).sum / 4 = 4 * k := by
  have hsum := List.sum_eq_card_nsmul (raws.map BitVec.toInt) k (by simpa using hk)
  rw [List.length_map, hlen, nsmul_eq_mul] at hsum
  omega

/-- A period opens the front end for the group (R103). -/
theorem exec_acqPeriod_between {s : State} (h : fgReady s) (hrun : s.acq.run = true)
    (hidle : s.acq.convBusy = false) (hg : GroupAt s.acq 0 0) :
    ∃ t, exec (.acqPeriod .int) s = .next t ∧ t.cfg = s.cfg ∧ BetweenConversions t 0 0
      ∧ t.acq.newValue = s.acq.newValue ∧ t.acq.value = s.acq.value :=
  ⟨_, exec_acqPeriod_running h.1 hrun, rfl, ⟨⟨h.1, rfl, h.2.2⟩, hrun, rfl, hidle, hg⟩, rfl, rfl⟩

/-- Settles O17: the period opens the front end, and every wait starts the conversion presented next. -/
theorem groupCompletesAndFlagsOnce : Obligations.GroupCompletesAndFlagsOnce := by
  intro s raws hready hrun hidle hsum hcnt hraws
  rw [groupOps_eq]
  obtain ⟨u, hperiod, hcfg, hopen, hunv, huval⟩ :=
    exec_acqPeriod_between hready hrun hidle (groupAt_zero hsum hcnt)
  have hfit : ∀ w ∈ raws, inSigned u.cfg.rawBits w.toInt = true := by
    intro w hw
    rw [hcfg]
    exact inSigned_iff.2 (hraws w hw)
  refine ⟨fun hlen => ?_, fun hlen => ?_⟩
  · obtain ⟨t, ht, -, -, hnv, hval⟩ := execAll_partialGroup hopen hfit (by omega)
    exact ⟨t, execAll_cons_next.2 ⟨u, hperiod, ht⟩, hnv.trans hunv, hval.trans huval⟩
  · obtain ⟨t, ht, hnv, hval⟩ := execAll_fullGroup hopen hfit hlen
    exact ⟨t, execAll_cons_next.2 ⟨u, hperiod, ht⟩, hnv, hval,
      fun k hk => hval.trans (congrArg _ (quarter_of_sixteen_equal hlen hk))⟩

end Sys2Proof.Machine
end

section
/-! SPE from a state where an operation may be presented (R122 to R125): the next state each operation gives. -/

namespace Sys2Proof.Machine

theorem exec_speInit_ready {s : State} (h : fgReady s) (fc : RealNum) :
    exec (.speInit .fg fc) s = .next (answer (s.withSpe
      { s.spe with
        coeff := .written ((numOf s.cfg).coeff fc s.cfg.fs), n := .written (windowLength s.cfg) })
      .none .none .none) :=
  foregroundOp_ready h _

theorem exec_speReset_ready {s : State} (h : fgReady s) :
    exec (.speReset .fg) s = .next (answer (s.withSpe
      { s.spe with
        s1 := .written (numOf s.cfg).zero, s2 := .written (numOf s.cfg).zero, cnt := .written 0 })
      .none .none .none) :=
  foregroundOp_ready h _

theorem exec_speGetResult_written {s : State} (h : fgReady s) {r : RealNum} (hr : s.spe.result = .written r) :
    exec (.speGetResult .fg) s = .next (answer s (.real r) .none .none) := by
  refine (foregroundOp_ready h _).trans ?_
  rw [hr]
  rfl

theorem exec_speGetResult_unwritten {s : State} (h : fgReady s) (hr : s.spe.result = .unwritten) :
    exec (.speGetResult .fg) s = .refused (.unwrittenElement "SPE.RESULT") := by
  refine (foregroundOp_ready h _).trans ?_
  rw [hr]
  rfl

section
variable {s : State} {x : Word} {c s1 s2 : RealNum} {n k : Nat} (h : fgReady s)
  (hx : inSigned (dsBits s.cfg) x.toInt = true) (hc : s.spe.coeff = .written c) (hn : s.spe.n = .written n)
  (h1 : s.spe.s1 = .written s1) (h2 : s.spe.s2 = .written s2) (hk : s.spe.cnt = .written k)
include h hx hc hn h1 h2 hk

/-- With every element written, a sample in range is fed or refused by the window's count alone (R123). -/
theorem exec_speFeed_written :
    exec (.speFeed .fg x) s =
      if k < n then
        .next (answer (s.withSpe (fed s.cfg s.spe c s1 s2 k n x.toInt)) (resultBit (decide (k + 1 = n)))
          .none .none)
      else .refused .windowComplete := by
  refine (foregroundOp_ready h _).trans ((if_neg (Bool.not_eq_false _ ▸ hx)).trans ?_)
  rw [hc, hn, h1, h2, hk]
  rfl

theorem exec_speFeed_open (hlt : k < n) :
    exec (.speFeed .fg x) s = .next (answer (s.withSpe (fed s.cfg s.spe c s1 s2 k n x.toInt))
      (resultBit (decide (k + 1 = n))) .none .none) :=
  (exec_speFeed_written h hx hc hn h1 h2 hk).trans (if_pos hlt)

theorem exec_speFeed_complete (hle : n ≤ k) : exec (.speFeed .fg x) s = .refused .windowComplete :=
  (exec_speFeed_written h hx hc hn h1 h2 hk).trans (if_neg (Nat.not_lt.2 hle))

end

/-- Settles O21: the guard is met, and the meaning is the update. -/
theorem speInitSetsCoefficientAndLength : Obligations.SpeInitSetsCoefficientAndLength :=
  fun _ fc h => exec_speInit_ready h fc

/-- Settles O23: every element is written, so the count decides between the feed and its refusal. -/
theorem speFeedAdvancesTheFilter : Obligations.SpeFeedAdvancesTheFilter := by
  intro s x c s1 s2 n k h hlo hhi hc hn h1 h2 hk
  have hx : inSigned (dsBits s.cfg) x.toInt = true := inSigned_iff.2 ⟨hlo, hhi⟩
  refine ⟨fun hlt => ?_, exec_speFeed_complete h hx hc hn h1 h2 hk⟩
  rw [exec_speFeed_open h hx hc hn h1 h2 hk hlt]
  simp only [resultBit, decide_eq_true_eq]
  rfl

/-- Settles O24: the guard is met, and the last power is read where it is written. -/
theorem speResetZeroesAndGetResultReads : Obligations.SpeResetZeroesAndGetResultReads :=
  fun _ h => ⟨exec_speReset_ready h, fun _ => exec_speGetResult_written h, exec_speGetResult_unwritten h⟩

end Sys2Proof.Machine
end

section
/-! Windows of samples (R123, R126, R131): how far a window has come, whatever the numeric structure, and that
feeding it goes through the recurrence. -/

namespace Sys2Proof.Machine

/-- In the configuration `C`, the foreground is ready in a window with this coefficient, `k` samples have been fed
and left the filter states `p`; a full window has just been finalised and its last feed has answered `done`. -/
structure WindowAt (C : Config) (c : RealNum) (k : Nat) (p : RealNum × RealNum) (s : State) : Prop where
  cfg : s.cfg = C
  ready : fgReady s
  coeff : s.spe.coeff = .written c
  length : s.spe.n = .written (windowLength C)
  s1 : s.spe.s1 = .written p.1
  s2 : s.spe.s2 = .written p.2
  cnt : s.spe.cnt = .written k
  done : k = windowLength C → s.out.rsp = some ⟨.ok, .bits 1 1, .none, .none⟩
    ∧ s.spe.result = .written (finalPower (numOf C) C.kappa c p.1 p.2)

theorem windowLength_pos (c : Config) : 0 < windowLength c :=
  Nat.two_pow_pos c.m

/-- The window reset opens an empty window (R124). -/
theorem exec_speReset_windowAt {s : State} (h : fgReady s) {c : RealNum} (hc : s.spe.coeff = .written c)
    (hn : s.spe.n = .written (windowLength s.cfg)) :
    ∃ t, exec (.speReset .fg) s = .next t
      ∧ WindowAt s.cfg c 0 ((numOf s.cfg).zero, (numOf s.cfg).zero) t :=
  ⟨_, exec_speReset_ready h, rfl, h, hc, hn, rfl, rfl, rfl, fun h0 => absurd h0 (windowLength_pos _).ne⟩

section
variable {C : Config} {c : RealNum} {k : Nat} {p : RealNum × RealNum} {s : State}

/-- One feed is one step of the recurrence (R123). -/
theorem WindowAt.exec_speFeed (h : WindowAt C c k p s) {x : Word} (hx : inSigned (dsBits C) x.toInt = true)
    (hk : k < windowLength C) :
    ∃ t, exec (.speFeed .fg x) s = .next t
      ∧ WindowAt C c (k + 1) (filterState (numOf C) c p.1 p.2 ((numOf C).ofInt x.toInt), p.1) t := by
  obtain ⟨rfl, hready, hc, hn, h1, h2, hcnt, -⟩ := h
  refine ⟨_, exec_speFeed_open hready hx hc hn h1 h2 hcnt hk, rfl, hready, hc, hn, rfl, rfl, rfl,
    fun hfull => ⟨?_, fed_result_of_last _ _ _ _ _ _ hfull⟩⟩
  simp [answer, resultBit, hfull]

/-- Feeds that fit into the window go through the recurrence over the embedded samples. -/
theorem WindowAt.execAll_speFeed (h : WindowAt C c k p s) {xs : List Word}
    (hxs : ∀ x ∈ xs, inSigned (dsBits C) x.toInt = true) (hk : k + xs.length ≤ windowLength C) :
    ∃ t, execAll (xs.map (.speFeed .fg)) s = .next t ∧ WindowAt C c (k + xs.length)
      (afterFeeds (numOf C) c (xs.map fun x => (numOf C).ofInt x.toInt) p) t := by
  induction xs generalizing s k p with
  | nil => exact ⟨s, rfl, h⟩
  | cons x xs ih =>
    rw [List.length_cons] at hk ⊢
    obtain ⟨hx, hrest⟩ := List.forall_mem_cons.1 hxs
    obtain ⟨u, hfeed, hu⟩ := h.exec_speFeed hx (by omega)
    obtain ⟨t, ht, hwindow⟩ := ih hu hrest (by omega)
    rw [show k + (xs.length + 1) = k + 1 + xs.length by omega]
    exact ⟨t, execAll_cons_next.2 ⟨u, hfeed, ht⟩, hwindow⟩

end

/-- A frequency set, the window reset and samples that fit into the window complete from any ready state. -/
theorem execAll_feedOps {s : State} (h : fgReady s) (fc : RealNum) {xs : List Word}
    (hxs : ∀ x ∈ xs, inSigned (dsBits s.cfg) x.toInt = true) (hlen : xs.length ≤ windowLength s.cfg) :
    ∃ t, execAll (feedOps fc xs) s = .next t ∧ WindowAt s.cfg ((numOf s.cfg).coeff fc s.cfg.fs) xs.length
      (afterFeeds (numOf s.cfg) ((numOf s.cfg).coeff fc s.cfg.fs)
        (xs.map fun x => (numOf s.cfg).ofInt x.toInt) ((numOf s.cfg).zero, (numOf s.cfg).zero)) t := by
  obtain ⟨u, hinit, hucfg, huready, hcoeff, hn⟩ :
      ∃ u, exec (.speInit .fg fc) s = .next u ∧ u.cfg = s.cfg ∧ fgReady u
        ∧ u.spe.coeff = .written ((numOf s.cfg).coeff fc s.cfg.fs)
        ∧ u.spe.n = .written (windowLength s.cfg) :=
    ⟨_, exec_speInit_ready h fc, rfl, h, rfl, rfl⟩
  rw [← hucfg] at hcoeff hn hxs hlen ⊢
  obtain ⟨v, hreset, hv⟩ := exec_speReset_windowAt huready hcoeff hn
  obtain ⟨t, ht, hwindow⟩ := hv.execAll_speFeed hxs (by omega)
  rw [Nat.zero_add] at hwindow
  exact ⟨t, execAll_cons_next.2 ⟨u, hinit, execAll_cons_next.2 ⟨v, hreset, ht⟩⟩, hwindow⟩

/-! ### The zero signal -/

section
variable {R : Type} {N : Num R} {z : R} (hmul : ∀ a, N.mul a z = z) (hadd : N.add z z = z) (hsub : N.sub z z = z)
include hmul hadd hsub

theorem afterFeeds_zeros (c : R) (k : Nat) : afterFeeds N c (List.replicate k z) (z, z) = (z, z) := by
  induction k with
  | zero => rfl
  | succ k ih => rw [List.replicate_succ, afterFeeds, filterState, hmul, hadd, hsub, ih]

theorem finalPower_zeros (kappa c : R) : finalPower N kappa c z z = z := by
  rw [finalPower, hmul, hadd, hmul, hsub, hmul]

end

/-- Settles O28: the recurrence over zeros stays at zero, and so does the power. -/
theorem zeroSignalGivesZeroPower : Obligations.ZeroSignalGivesZeroPower := by
  intro s c k h hzero hmul hadd hsub hc hn hk
  obtain ⟨u, hreset, hu⟩ := exec_speReset_windowAt h hc hn
  have hin : ∀ x ∈ List.replicate k (0 : Word), inSigned (dsBits s.cfg) x.toInt = true := by
    intro x hx
    rw [List.eq_of_mem_replicate hx]
    simp [inSigned]
  obtain ⟨t, ht, hwindow⟩ := hu.execAll_speFeed hin (by simpa [windowLength] using hk)
  rw [List.map_replicate] at ht
  rw [List.map_replicate, show (0 : Word).toInt = 0 from rfl, hzero, afterFeeds_zeros hmul hadd hsub,
    List.length_replicate, Nat.zero_add] at hwindow
  refine ⟨t, execAll_cons_next.2 ⟨u, hreset, ht⟩, hwindow.s1, hwindow.s2, fun hfull => ?_⟩
  rw [(hwindow.done hfull).2, finalPower_zeros hmul hadd hsub]

end Sys2Proof.Machine
end

section
/-! The recurrence of the exact instance (R123) as a sum of rotations: with the coefficient `2*cos(theta)` one complex
number, made of the two filter states, is turned by `theta` and moved by the sample at every feed, so that in the end
it is the samples' Fourier sum but for a rotation, and its squared size is the states' quadratic form (R126). -/

namespace Sys2Proof.Machine

/-- The complex number of size 1 at an angle. -/
noncomputable def rotation (θ : ℝ) : ℂ :=
  Complex.exp (θ * Complex.I)

@[simp] theorem rotation_zero : rotation 0 = 1 := by
  simp [rotation]

theorem rotation_add (α β : ℝ) : rotation (α + β) = rotation α * rotation β := by
  rw [rotation, Complex.ofReal_add, add_mul, Complex.exp_add]
  rfl

@[simp] theorem norm_rotation (θ : ℝ) : ‖rotation θ‖ = 1 :=
  Complex.norm_exp_ofReal_mul_I θ

@[simp] theorem normSq_rotation (θ : ℝ) : Complex.normSq (rotation θ) = 1 := by
  rw [Complex.normSq_eq_norm_sq, norm_rotation, one_pow]

theorem rotation_mul_neg (θ : ℝ) : rotation θ * rotation (-θ) = 1 := by
  rw [← rotation_add, add_neg_cancel, rotation_zero]

@[simp] theorem rotation_re (θ : ℝ) : (rotation θ).re = Real.cos θ :=
  Complex.exp_ofReal_mul_I_re θ

@[simp] theorem rotation_im (θ : ℝ) : (rotation θ).im = Real.sin θ :=
  Complex.exp_ofReal_mul_I_im θ

theorem rotation_add_neg (θ : ℝ) : rotation θ + rotation (-θ) = ((2 * Real.cos θ : ℝ) : ℂ) := by
  apply Complex.ext
  · rw [Complex.add_re, Complex.ofReal_re, rotation_re, rotation_re, Real.cos_neg, two_mul]
  · rw [Complex.add_im, Complex.ofReal_im, rotation_im, rotation_im, Real.sin_neg, add_neg_cancel]

/-! ### The Fourier sum of a list of samples -/

/-- The Fourier sum, at an angle for each sample, of the real numbers that `f` gives the samples. -/
noncomputable def fourierSum {α : Type} (θ : ℝ) (f : α → ℝ) (xs : List α) : ℂ :=
  ∑ j : Fin xs.length, (f (xs.get j) : ℂ) * rotation (-(θ * (j : ℕ)))

@[simp] theorem fourierSum_nil {α : Type} (θ : ℝ) (f : α → ℝ) : fourierSum θ f [] = 0 :=
  Fin.sum_univ_zero _

/-- The first sample stands for itself, and every other is one rotation further. -/
theorem fourierSum_cons {α : Type} (θ : ℝ) (f : α → ℝ) (x : α) (xs : List α) :
    fourierSum θ f (x :: xs) = f x + rotation (-θ) * fourierSum θ f xs := by
  have hturn (j : ℕ) : rotation (-(θ * (j + 1 : ℕ))) = rotation (-θ) * rotation (-(θ * j)) := by
    rw [← rotation_add]
    congr 1
    push_cast
    ring
  unfold fourierSum
  refine (Fin.sum_univ_succ (n := xs.length) _).trans ?_
  rw [Finset.mul_sum]
  congr 1
  · simp
  · refine Finset.sum_congr rfl fun j _ => ?_
    rw [Fin.val_succ, hturn, List.get_cons_succ']
    ring

theorem fourierSum_map {α β : Type} (θ : ℝ) (f : β → ℝ) (g : α → β) (xs : List α) :
    fourierSum θ f (xs.map g) = fourierSum θ (fun x => f (g x)) xs := by
  induction xs with
  | nil => simp
  | cons x xs ih => rw [List.map_cons, fourierSum_cons, fourierSum_cons, ih]

/-! ### The two filter states as one complex number -/

/-- The filter states as one complex number. -/
noncomputable def phasor (θ : ℝ) (p : RealNum × RealNum) : ℂ :=
  p.1.toReal - rotation (-θ) * p.2.toReal

@[simp] theorem toReal_exactNum_zero : exactNum.zero.toReal = 0 :=
  (toReal_ofRat 0).trans Rat.cast_zero

theorem phasor_zero (θ : ℝ) : phasor θ (exactNum.zero, exactNum.zero) = 0 := by
  simp [phasor]

/-- Its squared size is the quadratic form of the finalised power (R123). -/
theorem normSq_phasor (θ : ℝ) (p : RealNum × RealNum) :
    Complex.normSq (phasor θ p)
      = p.1.toReal ^ 2 + p.2.toReal ^ 2 - 2 * Real.cos θ * p.1.toReal * p.2.toReal := by
  simp only [phasor, Complex.normSq_apply, Complex.sub_re, Complex.sub_im, Complex.mul_re, Complex.mul_im,
    Complex.ofReal_re, Complex.ofReal_im, rotation_re, rotation_im, Real.cos_neg, Real.sin_neg]
  linear_combination p.2.toReal ^ 2 * Real.sin_sq_add_cos_sq θ

/-- The power of two filter states, in the real numbers. -/
theorem toReal_finalPower_eq_normSq {θ : ℝ} {c : RealNum} (hc : c.toReal = 2 * Real.cos θ) (kappa : RealNum)
    (p : RealNum × RealNum) :
    (finalPower exactNum kappa c p.1 p.2).toReal = kappa.toReal * Complex.normSq (phasor θ p) := by
  rw [toReal_finalPower, normSq_phasor, hc]
  ring

section
variable {θ : ℝ} {c : RealNum} (hc : c.toReal = 2 * Real.cos θ)
include hc

/-- A feed turns it by the angle and adds the sample. -/
theorem phasor_filterState (p : RealNum × RealNum) (x : RealNum) :
    phasor θ (filterState exactNum c p.1 p.2 x, p.1) = x.toReal + rotation θ * phasor θ p := by
  simp only [phasor, toReal_filterState, hc, Complex.ofReal_sub, Complex.ofReal_add,
    Complex.ofReal_mul _ p.1.toReal, ← rotation_add_neg]
  linear_combination (p.2.toReal : ℂ) * rotation_mul_neg θ

/-- Feeds turn it and add the samples' Fourier sum. -/
theorem phasor_afterFeeds (p : RealNum × RealNum) (xs : List RealNum) :
    phasor θ (afterFeeds exactNum c xs p)
      = rotation θ ^ xs.length * (phasor θ p + rotation (-θ) * fourierSum θ RealNum.toReal xs) := by
  induction xs generalizing p with
  | nil => simp [afterFeeds]
  | cons x xs ih =>
    rw [afterFeeds, ih, phasor_filterState hc, fourierSum_cons, List.length_cons]
    linear_combination -rotation θ ^ xs.length
      * (x.toReal + rotation (-θ) * fourierSum θ RealNum.toReal xs) * rotation_mul_neg θ

/-- After a reset the filter states' quadratic form is the squared size of the Fourier sum (R126). -/
theorem normSq_phasor_afterFeeds (xs : List RealNum) :
    Complex.normSq (phasor θ (afterFeeds exactNum c xs (exactNum.zero, exactNum.zero)))
      = Complex.normSq (fourierSum θ RealNum.toReal xs) := by
  simp [phasor_afterFeeds hc, phasor_zero]

/-- The power of a window is the scale times the squared size of the samples' Fourier sum (R126). -/
theorem toReal_windowPower (kappa : RealNum) (xs : List RealNum) :
    (windowPower exactNum kappa c xs).toReal
      = kappa.toReal * Complex.normSq (fourierSum θ RealNum.toReal xs) := by
  rw [← normSq_phasor_afterFeeds hc]
  exact toReal_finalPower_eq_normSq hc kappa _

end

/-- The angle of a frequency for each sample (R126). -/
noncomputable def angleOf (fc : RealNum) (fs : Nat) : ℝ :=
  2 * Real.pi * fc.toReal / fs

theorem toReal_coeff_angleOf (fc : RealNum) (fs : Nat) :
    (exactNum.coeff fc fs).toReal = 2 * Real.cos (angleOf fc fs) :=
  toReal_exactCoeff fc fs

/-- Settles O22: the coefficient is twice the cosine, and the cosine of an angle is that of what is left to the
whole turn. -/
theorem exactCoefficientIsTwiceTheCosine : Obligations.ExactCoefficientIsTwiceTheCosine := by
  refine ⟨fun fc fs _ => toReal_exactCoeff fc fs, fun f g fs hfs halias => ?_, abs_exactCoeff_le⟩
  have hfs' : (fs : ℝ) ≠ 0 := by positivity
  have hangle : angleOf g fs = 2 * Real.pi - angleOf f fs := by
    unfold angleOf
    rw [halias]
    field_simp
  rw [toReal_coeff_angleOf, toReal_coeff_angleOf, hangle, Real.cos_two_pi_sub]

/-- Settles O25: the window's states are those of the recurrence, whose quadratic form is the squared size of the
Fourier sum of the embedded samples. -/
theorem windowPowerIsTheFourierMagnitude : Obligations.WindowPowerIsTheFourierMagnitude := by
  intro s fc xs hready hlen hxs
  obtain ⟨t, ht, hwindow⟩ := execAll_feedOps hready fc (fun x hx => inSigned_iff.2 (hxs x hx)) hlen
  refine ⟨t, _, _, _, ht, hwindow.coeff, hwindow.s1, hwindow.s2, hwindow.cnt, hwindow.done, fun he => ?_⟩
  have hdone := hwindow.done
  rw [numOf_of_exact he] at hdone ⊢
  intro power
  have hc := toReal_coeff_angleOf fc s.cfg.fs
  have hpower : power = Complex.normSq (fourierSum (angleOf fc s.cfg.fs) RealNum.toReal
      (xs.map fun x => exactNum.ofInt x.toInt)) := by
    rw [fourierSum_map]
    simp only [toReal_ofInt, fourierSum, rotation, angleOf, power]
    push_cast
    rfl
  rw [hpower, ← normSq_phasor_afterFeeds hc]
  refine ⟨?_, fun hfull => ⟨_, (hdone hfull).2, toReal_finalPower_eq_normSq hc _ _⟩⟩
  rw [normSq_phasor, hc]

end Sys2Proof.Machine
end

section
/-! A sinusoid whose frequency is that of a bin (R128, R129): its Fourier sum, as two sums of rotations through whole
turns. -/

namespace Sys2Proof.Machine

/-- The sum of `n` rotations that go through `d` turns in equal steps. -/
noncomputable def turnSum (n : ℕ) (d : ℤ) : ℂ :=
  ∑ j : Fin n, rotation (2 * Real.pi * d * (j : ℕ) / n)

theorem rotation_step_pow (n : ℕ) (d : ℤ) (j : ℕ) :
    rotation (2 * Real.pi * d * j / n) = rotation (2 * Real.pi * d / n) ^ j := by
  rw [rotation, rotation, ← Complex.exp_nat_mul]
  congr 1
  push_cast
  ring

/-- A step of `d/n` turns is none exactly when `n` divides `d`. -/
theorem rotation_step_eq_one_iff {n : ℕ} (hn : n ≠ 0) (d : ℤ) :
    rotation (2 * Real.pi * d / n) = 1 ↔ (n : ℤ) ∣ d := by
  have hn' : (n : ℂ) ≠ 0 := Nat.cast_ne_zero.2 hn
  have hpi : (2 * Real.pi * Complex.I : ℂ) ≠ 0 := Complex.two_pi_I_ne_zero
  rw [rotation, Complex.exp_eq_one_iff]
  refine exists_congr fun m => ?_
  have hform : ((2 * Real.pi * d / n : ℝ) : ℂ) * Complex.I = (d / n : ℂ) * (2 * Real.pi * Complex.I) := by
    push_cast
    ring
  rw [hform, mul_left_inj' hpi, div_eq_iff hn', mul_comm]
  exact_mod_cast Iff.rfl

theorem turnSum_of_dvd {n : ℕ} {d : ℤ} (hn : n ≠ 0) (h : (n : ℤ) ∣ d) : turnSum n d = n := by
  simp [turnSum, rotation_step_pow, (rotation_step_eq_one_iff hn d).2 h]

/-- Rotations through whole turns cancel, unless every step is whole turns. -/
theorem turnSum_of_not_dvd {n : ℕ} {d : ℤ} (hn : n ≠ 0) (h : ¬ (n : ℤ) ∣ d) : turnSum n d = 0 := by
  have hstep : rotation (2 * Real.pi * d / n) - 1 ≠ 0 := sub_ne_zero.2 (mt (rotation_step_eq_one_iff hn d).1 h)
  have hwhole : rotation (2 * Real.pi * d / n) ^ n = 1 := by
    have hturns : 2 * Real.pi * d * n / n = 2 * Real.pi * d / (1 : ℕ) := by
      field_simp
      simp
    rw [← rotation_step_pow, hturns, (rotation_step_eq_one_iff one_ne_zero d).2 (one_dvd d)]
  refine (mul_eq_zero.1 ?_).resolve_left hstep
  simp only [turnSum, rotation_step_pow]
  rw [Fin.sum_univ_eq_sum_range fun j => rotation (2 * Real.pi * d / n) ^ j, mul_geom_sum, hwhole, sub_self]

/-- A cosine is half the sum of two opposite rotations, so its Fourier sum is that of two sums of rotations. -/
theorem fourierSum_sinusoid {xs : List RealNum} {A φ : ℝ} {k k' : ℤ}
    (hxs : ∀ j : Fin xs.length,
      (xs.get j).toReal = A * Real.cos (2 * Real.pi * k' * (j : ℕ) / xs.length + φ)) :
    fourierSum (2 * Real.pi * k / xs.length) RealNum.toReal xs
      = (A / 2 : ℝ) * (rotation φ * turnSum xs.length (k' - k)
        + rotation (-φ) * turnSum xs.length (-(k' + k))) := by
  rw [fourierSum, turnSum, turnSum, Finset.mul_sum, Finset.mul_sum, ← Finset.sum_add_distrib, Finset.mul_sum]
  refine Finset.sum_congr rfl fun j _ => ?_
  have hcos (α : ℝ) : ((A * Real.cos α : ℝ) : ℂ) = (A / 2 : ℝ) * (rotation α + rotation (-α)) := by
    rw [rotation_add_neg]
    push_cast
    ring
  rw [hxs, hcos, mul_assoc, add_mul]
  simp only [← rotation_add]
  congr 3
  all_goals
    push_cast
    ring

section
variable {n : ℕ} {k k' : ℤ} {A φ : ℝ}

/-- Inside the band a sinusoid meets its bin with one of its two rotations. -/
theorem normSq_of_same_bin (hn : n ≠ 0) (hlo : 0 < k) (hhi : 2 * k < n) :
    Complex.normSq ((A / 2 : ℝ) * (rotation φ * turnSum n (k - k) + rotation (-φ) * turnSum n (-(k + k))))
      = (A * n / 2) ^ 2 := by
  have hother : ¬ (n : ℤ) ∣ -(k + k) := by
    rw [dvd_neg]
    intro hdvd
    have := Int.le_of_dvd (by omega) hdvd
    omega
  rw [turnSum_of_dvd hn (by simp), turnSum_of_not_dvd hn hother, mul_zero, add_zero, Complex.normSq_mul,
    Complex.normSq_mul, normSq_rotation, Complex.normSq_ofReal, Complex.normSq_natCast]
  ring

/-- At an end of the band it meets its bin with both. -/
theorem normSq_of_same_bin_at_end (hn : n ≠ 0) (hend : k = 0 ∨ 2 * k = n) :
    Complex.normSq ((A / 2 : ℝ) * (rotation φ * turnSum n (k - k) + rotation (-φ) * turnSum n (-(k + k))))
      = (A * n * Real.cos φ) ^ 2 := by
  have hother : (n : ℤ) ∣ -(k + k) := by
    rw [dvd_neg, ← two_mul]
    rcases hend with rfl | hhalf
    · simp
    · rw [hhalf]
  have hsum : ((A / 2 : ℝ) * (rotation φ * n + rotation (-φ) * n) : ℂ) = (A * n * Real.cos φ : ℝ) := by
    rw [← add_mul, rotation_add_neg]
    push_cast
    ring
  rw [turnSum_of_dvd hn (by simp), turnSum_of_dvd hn hother, hsum, Complex.normSq_ofReal, sq]

/-- At another bin both cancel. -/
theorem normSq_of_other_bin (hn : n ≠ 0) (hsub : ¬ (n : ℤ) ∣ k' - k) (hadd : ¬ (n : ℤ) ∣ k' + k) :
    Complex.normSq ((A / 2 : ℝ) * (rotation φ * turnSum n (k' - k) + rotation (-φ) * turnSum n (-(k' + k))))
      = 0 := by
  rw [turnSum_of_not_dvd hn hsub, turnSum_of_not_dvd hn (mt dvd_neg.1 hadd)]
  simp

end

/-- Settles O26: the power is that of the sinusoid's Fourier sum, which its two rotations make. -/
theorem sinusoidPowerIsThatOfItsBin : Obligations.SinusoidPowerIsThatOfItsBin := by
  intro c fc xs A φ k k' hfs hfc hlen hxs power
  have hn : xs.length ≠ 0 := hlen ▸ (Nat.two_pow_pos c.m).ne'
  have hreal : (2 : ℝ) ^ c.m = xs.length := by rw [hlen]; push_cast; rfl
  have hint : (2 : ℤ) ^ c.m = xs.length := by rw [hlen]; push_cast; rfl
  rw [hreal] at hfc hxs ⊢
  rw [hint]
  have hangle : angleOf fc c.fs = 2 * Real.pi * k / xs.length := by
    have hfs' : (c.fs : ℝ) ≠ 0 := by positivity
    unfold angleOf
    rw [hfc]
    field_simp
  have hpower : power = c.kappa.toReal * Complex.normSq ((A / 2 : ℝ)
      * (rotation φ * turnSum xs.length (k' - k) + rotation (-φ) * turnSum xs.length (-(k' + k)))) := by
    rw [← fourierSum_sinusoid hxs, ← hangle]
    exact toReal_windowPower (toReal_coeff_angleOf fc c.fs) _ _
  rw [hpower]
  refine ⟨?_, ?_, fun hsub hadd => ?_⟩
  · rintro rfl hlo hhi
    rw [normSq_of_same_bin hn hlo hhi]
  · rintro rfl hend
    rw [normSq_of_same_bin_at_end hn hend]
  · rw [normSq_of_other_bin hn hsub hadd, mul_zero]

end Sys2Proof.Machine
end

section
/-! The bounds of R130 in the exact instance: the finalised power is not negative, and how large the filter states
and the power of a window of bounded samples can be. -/

namespace Sys2Proof.Machine

theorem kappa_pos_of_exact {c : Config} (hc : wellFormed c = true) (he : c.num = .exact) :
    0 < c.kappa.toReal := by
  have hlt := (numOf_le_false_of_exact he).1 (wellFormed_kappa hc)
  rwa [numOf_of_exact he, toReal_exactNum_zero] at hlt

/-- With a coefficient of at most 2 in size the quadratic form of two filter states is not negative: the coefficient
is twice a cosine. -/
theorem quadraticForm_nonneg {c : ℝ} (hc : |c| ≤ 2) (a b : ℝ) : 0 ≤ a * a + b * b - c * a * b := by
  obtain ⟨hlo, hhi⟩ := abs_le.1 hc
  have hplus : 0 ≤ (2 + c) * (a - b) ^ 2 := mul_nonneg (by linarith) (sq_nonneg _)
  have hminus : 0 ≤ (2 - c) * (a + b) ^ 2 := mul_nonneg (by linarith) (sq_nonneg _)
  linarith

/-- The feed that completes a window finalises a power that is not negative (R130). -/
theorem exec_speFeed_result_nonneg {ctx : Ctx} {x : Word} {s t : State} {c r : RealNum} {k : Nat}
    (he : s.cfg.num = .exact) (hc : s.spe.coeff = .written c) (hle : |c.toReal| ≤ 2)
    (hk : s.spe.cnt = .written k) (hn : s.spe.n = .written (k + 1)) (h : exec (.speFeed ctx x) s = .next t)
    (hr : t.spe.result = .written r) : 0 ≤ r.toReal := by
  obtain ⟨hwf, -, -, -, -, _, _, s1, s2, _, -, -, h1, h2, -⟩ := exec_speFeed_next h
  obtain ⟨s0, -, -, hlast⟩ := speFeed_toReal he hc h1 h2 hn hk h
  obtain ⟨r', hr', hpower⟩ := hlast rfl
  cases hr.symm.trans hr'
  rw [hpower]
  exact mul_nonneg (kappa_pos_of_exact hwf he).le (quadraticForm_nonneg hle _ _)

/-! ### The filter states of a window -/

/-- The bounds on the filter states after `k` samples of at most `X` in size. -/
structure StatesBounded (θ X : ℝ) (k : ℕ) (p : RealNum × RealNum) : Prop where
  norm_le : ‖phasor θ p‖ ≤ k * X
  s1 : |p.1.toReal| ≤ k * (k + 1) / 2 * X
  s2 : |p.2.toReal| ≤ k * (k + 1) / 2 * X

theorem statesBounded_zero (θ X : ℝ) : StatesBounded θ X 0 (exactNum.zero, exactNum.zero) := by
  constructor <;> simp [phasor_zero]

/-- The newest state is at most as much larger than the one before it as the complex number is. -/
theorem abs_newest_le (θ : ℝ) (p : RealNum × RealNum) : |p.1.toReal| ≤ ‖phasor θ p‖ + |p.2.toReal| :=
  calc |p.1.toReal| = ‖phasor θ p + rotation (-θ) * p.2.toReal‖ := by simp [phasor]
    _ ≤ ‖phasor θ p‖ + ‖rotation (-θ) * (p.2.toReal : ℂ)‖ := norm_add_le _ _
    _ = ‖phasor θ p‖ + |p.2.toReal| := by simp

section
variable {θ X : ℝ} {c : RealNum} (hc : c.toReal = 2 * Real.cos θ)
include hc

/-- A feed makes the complex number larger by the sample at most. -/
theorem norm_phasor_filterState_le (p : RealNum × RealNum) (x : RealNum) :
    ‖phasor θ (filterState exactNum c p.1 p.2 x, p.1)‖ ≤ |x.toReal| + ‖phasor θ p‖ := by
  rw [phasor_filterState hc]
  refine (norm_add_le _ _).trans_eq ?_
  simp

theorem StatesBounded.feed {k : ℕ} {p : RealNum × RealNum} {x : RealNum} (h : StatesBounded θ X k p)
    (hx : |x.toReal| ≤ X) : StatesBounded θ X (k + 1) (filterState exactNum c p.1 p.2 x, p.1) := by
  have hX : 0 ≤ X := (abs_nonneg _).trans hx
  have hnorm : ‖phasor θ (filterState exactNum c p.1 p.2 x, p.1)‖ ≤ (k + 1 : ℕ) * X :=
    calc _ ≤ |x.toReal| + ‖phasor θ p‖ := norm_phasor_filterState_le hc p x
      _ ≤ X + k * X := add_le_add hx h.norm_le
      _ = (k + 1 : ℕ) * X := by push_cast; ring
  have hbound : ((k + 1 : ℕ) : ℝ) * ((k + 1 : ℕ) + 1) / 2 * X = (k + 1 : ℕ) * X + k * (k + 1) / 2 * X := by
    push_cast
    ring
  refine ⟨hnorm, ?_, ?_⟩
  · rw [hbound]
    exact (abs_newest_le θ _).trans (add_le_add hnorm h.s1)
  · rw [hbound]
    exact h.s1.trans (le_add_of_nonneg_left (by positivity))

theorem StatesBounded.feeds {k : ℕ} {p : RealNum × RealNum} {xs : List RealNum} (h : StatesBounded θ X k p)
    (hxs : ∀ x ∈ xs, |x.toReal| ≤ X) :
    StatesBounded θ X (k + xs.length) (afterFeeds exactNum c xs p) := by
  induction xs generalizing k p with
  | nil => exact h
  | cons x xs ih =>
    obtain ⟨hx, hrest⟩ := List.forall_mem_cons.1 hxs
    rw [List.length_cons, Nat.add_comm xs.length, ← Nat.add_assoc]
    exact ih (h.feed hc hx) hrest

end

/-- Each filter state times the sine of the angle is the imaginary part of the complex number, or of a rotation of
it. -/
theorem abs_sin_mul_le_norm_phasor (θ : ℝ) (p : RealNum × RealNum) :
    |p.1.toReal| * |Real.sin θ| ≤ ‖phasor θ p‖ ∧ |p.2.toReal| * |Real.sin θ| ≤ ‖phasor θ p‖ := by
  have h1 : (rotation θ * phasor θ p).im = p.1.toReal * Real.sin θ := by
    rw [phasor, mul_sub, ← mul_assoc, rotation_mul_neg, one_mul]
    simp [mul_comm]
  have h2 : (phasor θ p).im = p.2.toReal * Real.sin θ := by
    simp [phasor, mul_comm]
  rw [← abs_mul, ← abs_mul, ← h1, ← h2]
  refine ⟨(Complex.abs_im_le_norm _).trans_eq ?_, Complex.abs_im_le_norm _⟩
  rw [norm_mul, norm_rotation, one_mul]

section
variable {θ X : ℝ} {k n : ℕ} {p : RealNum × RealNum} (h : StatesBounded θ X k p) (hX : 0 ≤ X) (hk : k ≤ n)
include h hX hk

theorem StatesBounded.norm_phasor_le : ‖phasor θ p‖ ≤ n * X :=
  h.norm_le.trans (by gcongr)

/-- The first bound of R130, whatever the frequency. -/
theorem StatesBounded.abs_states_le :
    |p.1.toReal| ≤ n * (n + 1) / 2 * X ∧ |p.2.toReal| ≤ n * (n + 1) / 2 * X := by
  have hgrow : (k : ℝ) * (k + 1) / 2 * X ≤ n * (n + 1) / 2 * X := by gcongr
  exact ⟨h.s1.trans hgrow, h.s2.trans hgrow⟩

/-- The second bound of R130, off the ends of the band. -/
theorem StatesBounded.abs_states_le_div_sin (hsin : Real.sin θ ≠ 0) :
    |p.1.toReal| ≤ n * X / |Real.sin θ| ∧ |p.2.toReal| ≤ n * X / |Real.sin θ| := by
  obtain ⟨h1, h2⟩ := abs_sin_mul_le_norm_phasor θ p
  have hle := h.norm_phasor_le hX hk
  rw [le_div_iff₀ (abs_pos.2 hsin), le_div_iff₀ (abs_pos.2 hsin)]
  exact ⟨h1.trans hle, h2.trans hle⟩

theorem StatesBounded.normSq_phasor_le : Complex.normSq (phasor θ p) ≤ (n * X) ^ 2 := by
  rw [Complex.normSq_eq_norm_sq]
  gcongr
  exact h.norm_phasor_le hX hk

end

/-- Samples in range, embedded, are at most `2^(ACC_BITS - 3)` in size. -/
theorem abs_toReal_ofInt_le {b : ℕ} {v : ℤ} (hlo : -(2 : ℤ) ^ b ≤ v) (hhi : v < 2 ^ b) :
    |(exactNum.ofInt v).toReal| ≤ 2 ^ b := by
  rw [toReal_ofInt, abs_le]
  exact ⟨by exact_mod_cast hlo, by exact_mod_cast hhi.le⟩

/-- Settles O29: a completing feed makes a quadratic form that is not negative, and a window's states are bounded by
induction on its samples, through the complex number they make. -/
theorem finalisedPowerIsNonNegativeAndBounded : Obligations.FinalisedPowerIsNonNegativeAndBounded := by
  refine ⟨fun s t x c r k => exec_speFeed_result_nonneg, ?_⟩
  intro s fc xs hready he hlen hxs N X
  obtain ⟨t, ht, hwindow⟩ := execAll_feedOps hready fc (fun x hx => inSigned_iff.2 (hxs x hx)) hlen
  rw [numOf_of_exact he] at hwindow
  have hdone := hwindow.done
  rw [numOf_of_exact he] at hdone
  have hX : 0 ≤ X := by positivity
  have hN : N = (2 ^ s.cfg.m : ℕ) := by push_cast; rfl
  have hbounded (θ : ℝ) (hc : (exactNum.coeff fc s.cfg.fs).toReal = 2 * Real.cos θ) :
      StatesBounded θ X xs.length (afterFeeds exactNum (exactNum.coeff fc s.cfg.fs)
        (xs.map fun x => exactNum.ofInt x.toInt) (exactNum.zero, exactNum.zero)) := by
    have hfed := (statesBounded_zero θ X).feeds hc (xs := xs.map fun x => exactNum.ofInt x.toInt)
      (List.forall_mem_map.2 fun x hx => abs_toReal_ofInt_le (hxs x hx).1 (hxs x hx).2)
    rwa [List.length_map, Nat.zero_add] at hfed
  have hangle := toReal_coeff_angleOf fc s.cfg.fs
  have hstates := (hbounded _ hangle).abs_states_le hX hlen
  rw [hN]
  refine ⟨t, _, _, _, ht, hwindow.coeff, hwindow.s1, hwindow.s2, abs_exactCoeff_le _ _, hstates.1, hstates.2,
    fun θ hc hsin => (hbounded θ hc).abs_states_le_div_sin hX hlen hsin,
    fun hfull => ⟨_, (hdone hfull).2, ?_⟩⟩
  have hkappa := (kappa_pos_of_exact hready.1 he).le
  rw [toReal_finalPower_eq_normSq hangle]
  exact ⟨mul_nonneg hkappa (Complex.normSq_nonneg _),
    mul_le_mul_of_nonneg_left ((hbounded _ hangle).normSq_phasor_le hX hlen) hkappa⟩

end Sys2Proof.Machine
end

section
/-! What an operation leaves of the run and of the foreground's state (R72, R182), and the frame of each unit's
operations (R133, R35, R66). -/

namespace Sys2Proof.Machine

/-- The operations that write `SYS.ASLEEP`: the events of the interrupt context, the wait and the restart (R182). -/
def writesAsleep : Instr → Bool
  | .acqPeriod _ | .acqConv _ _ | .sysWait _ | .sysSerial _ | .sysRestart _ => true
  | _ => false

/-- The operations that can begin a store reset (R161, R162), and the restart, which cuts it (R65). -/
def writesJob : Instr → Bool
  | .pstInit _ | .pstResetAll _ | .sysRestart _ => true
  | _ => false

/-- The restart, which puts the foreground agent back at the boot sequence (R230). -/
def isRestart : Instr → Bool
  | .sysRestart _ => true
  | _ => false

/-- What an operation leaves of the rest of the run and of the foreground's state, and that it is one step. -/
structure RunFrame (i : Instr) (s t : State) : Prop where
  pending : t.pending = s.pending
  epoch : t.epoch = s.epoch + 1
  foreground : isRestart i = false → t.foreground = s.foreground
  asleep : writesAsleep i = false → t.asleep = s.asleep
  job : writesJob i = false → t.job = s.job

variable {i : Instr} {s t : State}

theorem runFrame_same (o : StepOutput) : RunFrame i s (s.withOut o) :=
  ⟨rfl, rfl, fun _ => rfl, fun _ => rfl, fun _ => rfl⟩

theorem runFrame_withAcq (a : Acq) (o : StepOutput) : RunFrame i s ((s.withAcq a).withOut o) :=
  ⟨rfl, rfl, fun _ => rfl, fun _ => rfl, fun _ => rfl⟩

theorem runFrame_withSpe (p : Spe) (o : StepOutput) : RunFrame i s ((s.withSpe p).withOut o) :=
  ⟨rfl, rfl, fun _ => rfl, fun _ => rfl, fun _ => rfl⟩

theorem runFrame_withCsm (k : Csm) (o : StepOutput) : RunFrame i s ((s.withCsm k).withOut o) :=
  ⟨rfl, rfl, fun _ => rfl, fun _ => rfl, fun _ => rfl⟩

theorem runFrame_withNvm (m : Memory) (o : StepOutput) : RunFrame i s ((s.withNvm m).withOut o) :=
  ⟨rfl, rfl, fun _ => rfl, fun _ => rfl, fun _ => rfl⟩

theorem runFrame_withAsleep (hw : writesAsleep i = true) (a : Acq) (b : Bool) (o : StepOutput) :
    RunFrame i s (((s.withAcq a).withAsleep b).withOut o) :=
  { runFrame_withAcq a o with asleep := fun h => by simp [hw] at h }

theorem runFrame_raiseError {st : Status} (h : raiseError s st = .next t) : RunFrame i s t := by
  rw [raiseError_next.1 h]
  exact runFrame_same _

theorem runFrame_storeStep {j : StoreJob} (hw : writesJob i = true) (h : storeStep j s = .next t) :
    RunFrame i s t := by
  obtain ⟨_, -, -, rfl⟩ | ⟨-, -, rfl⟩ := storeStep_next h
  all_goals exact ⟨rfl, rfl, fun _ => rfl, fun _ => rfl, fun hn => by simp [hw] at hn⟩

/-- Every operation is one step, and leaves the run as it is; who moves the rest is named. -/
theorem exec_runFrame (h : exec i s = .next t) : RunFrame i s t := by
  cases i with
  | acqInit =>
    obtain ⟨-, -, -, _, _, -, rfl⟩ := exec_acqInit_next h
    exact runFrame_withAcq _ _
  | acqShutdown =>
    obtain ⟨-, -, rfl⟩ := exec_acqShutdown_next h
    exact runFrame_withAcq _ _
  | acqPeriod =>
    obtain ⟨-, -, -, rfl⟩ := exec_acqPeriod_next h
    exact runFrame_withAsleep rfl _ _ _
  | acqConv =>
    obtain ⟨-, -, -, -, -, -, _, _, -, -, rfl⟩ := exec_acqConv_next h
    exact runFrame_withAsleep rfl _ _ _
  | acqTake =>
    obtain ⟨-, -, -, -, -, -, -, _, _, rfl⟩ := exec_acqTake_next h
    exact runFrame_withAcq _ _
  | speInit =>
    obtain ⟨-, -, -, -, rfl⟩ := exec_speInit_next h
    exact runFrame_withSpe _ _
  | speFeed =>
    obtain ⟨-, -, -, -, -, _, _, _, _, _, -, -, -, -, -, -, rfl⟩ := exec_speFeed_next h
    exact runFrame_withSpe _ _
  | speReset =>
    obtain ⟨-, -, -, -, rfl⟩ := exec_speReset_next h
    exact runFrame_withSpe _ _
  | speGetResult =>
    obtain ⟨-, -, -, -, _, -, rfl⟩ := exec_speGetResult_next h
    exact runFrame_same _
  | csmInit =>
    obtain ⟨-, -, -, -, _, -, rfl⟩ := exec_csmInit_next h
    exact runFrame_withCsm _ _
  | csmProcess =>
    obtain ⟨-, -, -, -, -, -, _, _, _, -, -, -, rfl⟩ := exec_csmProcess_next h
    exact runFrame_withCsm _ _
  | csmShort =>
    obtain ⟨-, -, -, -, _, -, rfl⟩ := exec_csmShort_next h
    exact runFrame_withCsm _ _
  | csmLong =>
    obtain ⟨-, -, -, -, _, -, rfl⟩ := exec_csmLong_next h
    exact runFrame_withCsm _ _
  | csmTick =>
    obtain ⟨-, -, -, -, _, -, rfl⟩ := exec_csmTick_next h
    exact runFrame_withCsm _ _
  | pstInit =>
    obtain ⟨-, -, -, -, -, ⟨-, rfl⟩ | ⟨-, hs⟩⟩ := exec_pstInit_next h
    · exact runFrame_same _
    · exact runFrame_storeStep rfl hs
  | pstResetAll =>
    obtain ⟨-, -, -, -, -, hs⟩ := exec_pstResetAll_next h
    exact runFrame_storeStep rfl hs
  | pstGet =>
    obtain ⟨-, -, -, -, ⟨-, hr⟩ | ⟨-, -, rfl⟩⟩ := exec_pstGet_next h
    · exact runFrame_raiseError hr
    · exact runFrame_same _
  | pstSet =>
    obtain ⟨-, -, -, -, -, ⟨_, -, hr⟩ | ⟨_, -, -, -, -, rfl⟩⟩ := exec_pstSet_next h
    · exact runFrame_raiseError hr
    · exact runFrame_withNvm _ _
  | pstGetRange =>
    obtain ⟨-, -, -, -, ⟨-, hr⟩ | ⟨_, -, rfl⟩⟩ := exec_pstGetRange_next h
    · exact runFrame_raiseError hr
    · exact runFrame_same _
  | sysWait =>
    obtain ⟨-, -, -, -, rfl⟩ := exec_sysWait_next h
    exact runFrame_withAsleep rfl _ _ _
  | sysWdkick =>
    obtain ⟨-, -, -, -, rfl⟩ := exec_sysWdkick_next h
    exact runFrame_same _
  | sysSerial =>
    obtain ⟨-, -, rfl⟩ := exec_sysSerial_next h
    exact runFrame_withAsleep rfl s.acq _ _
  | sysRestart =>
    obtain ⟨-, rfl⟩ := exec_sysRestart_next h
    exact ⟨rfl, rfl, nofun, nofun, nofun⟩

theorem isRestart_eq_false (hi : ∀ c, i ≠ .sysRestart c) : isRestart i = false := by
  cases i with
  | sysRestart c => exact absurd rfl (hi c)
  | _ => rfl

/-! ### The bytes of the memory -/

/-- An operation that does not write the store leaves every byte (R66). -/
theorem exec_sameBytes (h : exec i s = .next t) (hw : writesStore i = false) : sameBytes s t := by
  intro a
  rw [(exec_frame h).nvm hw]

/-- The first step of a store reset writes the first slot: a well-formed table has an entry 0 (R9, R162). -/
theorem readCell_of_first_storeStep {fromInit : Bool} (hc : wellFormed s.cfg = true)
    (h : storeStep ⟨0, fromInit⟩ s = .next t) {a : Nat}
    (ha : a < slot s.cfg 0 ∨ slot s.cfg 0 + s.cfg.stride ≤ a) : readCell t.nvm a = readCell s.nvm a := by
  obtain ⟨_, -, -, rfl⟩ | ⟨hnone, -⟩ := storeStep_next h
  · exact readCell_writeLE_outside _ _ ha
  · have hsize : 5 ≤ s.cfg.schema.length := by
      obtain ⟨-, -, -, -, -, -, -, -, hcount, -⟩ := wellFormed_bounds hc
      exact hcount
    have hshort : s.cfg.schema.length ≤ 0 := List.getElem?_eq_none_iff.1 hnone
    omega

theorem exec_pstInit_readCell {c : Ctx} (h : exec (.pstInit c) s = .next t) {a : Nat}
    (ha : a < slot s.cfg 0 ∨ slot s.cfg 0 + s.cfg.stride ≤ a) : readCell t.nvm a = readCell s.nvm a := by
  obtain ⟨hc, -, -, -, -, ⟨-, rfl⟩ | ⟨-, hs⟩⟩ := exec_pstInit_next h
  · rfl
  · exact readCell_of_first_storeStep hc hs ha

theorem exec_pstResetAll_readCell {c : Ctx} (h : exec (.pstResetAll c) s = .next t) {a : Nat}
    (ha : a < slot s.cfg 0 ∨ slot s.cfg 0 + s.cfg.stride ≤ a) : readCell t.nvm a = readCell s.nvm a := by
  obtain ⟨hc, -, -, -, -, hs⟩ := exec_pstResetAll_next h
  exact readCell_of_first_storeStep hc hs ha

/-- A value is stored to its slot and nowhere else (R164). -/
theorem exec_pstSet_readCell {c : Ctx} {x v : Word} (h : exec (.pstSet c x v) s = .next t) {a : Nat}
    (ha : a < slot s.cfg x.toNat ∨ slot s.cfg x.toNat + s.cfg.stride ≤ a) :
    readCell t.nvm a = readCell s.nvm a := by
  obtain ⟨-, -, -, -, -, ⟨_, -, hr⟩ | ⟨_, -, -, -, -, rfl⟩⟩ := exec_pstSet_next h
  · rw [raiseError_next.1 hr]
    rfl
  · exact readCell_writeLE_outside _ _ ha

/-! ### The frame of each unit's operations -/

/-- The two events of the acquisition timer wake the foreground (R182). -/
theorem exec_acq_event_wakes {c : Ctx} {w : Word} (hi : i = .acqPeriod c ∨ i = .acqConv c w)
    (h : exec i s = .next t) : t.asleep = false := by
  obtain rfl | rfl := hi
  · obtain ⟨-, -, -, rfl⟩ := exec_acqPeriod_next h
    rfl
  · obtain ⟨-, -, -, -, -, -, _, _, -, -, rfl⟩ := exec_acqConv_next h
    rfl

/-- A wait writes `ACQ.CONV_BUSY` alone of ACQ (R181). -/
theorem exec_sysWait_acq {c : Ctx} (h : exec (.sysWait c) s = .next t) :
    { t.acq with convBusy := s.acq.convBusy } = s.acq := by
  obtain ⟨-, -, -, -, rfl⟩ := exec_sysWait_next h
  rfl

/-- The operations that only read leave the block as it is. -/
theorem exec_sameBlock (h : exec i s = .next t) (hacq : writesAcq i = false) (hspe : writesSpe i = false)
    (hcsm : writesCsm i = false) (hasleep : writesAsleep i = false) (hstore : writesStore i = false) :
    sameBlock s t :=
  ⟨(exec_frame h).acq hacq, (exec_frame h).spe hspe, (exec_frame h).csm hcsm, (exec_runFrame h).asleep hasleep,
    (exec_frame h).nvm hstore⟩

/-- A restart puts every unit back to its reset values and leaves the bytes (R230). -/
theorem exec_sysRestart_state {c : Ctx} (h : exec (.sysRestart c) s = .next t) :
    t.acq = Acq.reset ∧ t.spe = Spe.reset ∧ t.csm = Csm.reset ∧ t.asleep = false ∧ t.job = none
      ∧ t.foreground = .boot1 ∧ sameBytes s t := by
  obtain ⟨-, rfl⟩ := exec_sysRestart_next h
  exact ⟨rfl, rfl, rfl, rfl, rfl, rfl, fun _ => rfl⟩

/-- Settles O57: for each operation, what it does not write by the two frames, and its bytes by where it stores. -/
theorem operationsKeepToTheirUnit : Obligations.OperationsKeepToTheirUnit := by
  intro i s t h
  have hunit := exec_frame h
  have hrun := exec_runFrame h
  refine ⟨⟨hunit.cfg, hrun.pending, hrun.epoch⟩, fun hi => hrun.foreground (isRestart_eq_false hi),
    ?acq, ?acqEvents, ?spe, ?csm, ?pst, ?resetBytes, ?setBytes, ?reads, ?wait, ?serial, ?restart⟩
  case acq =>
    rintro c w (rfl | rfl | rfl)
    all_goals exact ⟨hunit.spe rfl, hunit.csm rfl, hrun.asleep rfl, hrun.job rfl, exec_sameBytes h rfl⟩
  case acqEvents =>
    intro c w hi
    have hawake := exec_acq_event_wakes hi h
    obtain rfl | rfl := hi
    all_goals exact ⟨hunit.spe rfl, hunit.csm rfl, hawake, hrun.job rfl, exec_sameBytes h rfl⟩
  case spe =>
    rintro c f x (rfl | rfl | rfl | rfl)
    all_goals exact ⟨hunit.acq rfl, hunit.csm rfl, hrun.asleep rfl, hrun.job rfl, exec_sameBytes h rfl⟩
  case csm =>
    rintro c m p hi lo x y (rfl | rfl | rfl | rfl | rfl)
    all_goals exact ⟨hunit.acq rfl, hunit.spe rfl, hrun.asleep rfl, hrun.job rfl, exec_sameBytes h rfl⟩
  case pst =>
    rintro c x v (rfl | rfl | rfl)
    all_goals exact ⟨hunit.acq rfl, hunit.spe rfl, hunit.csm rfl, hrun.asleep rfl⟩
  case resetBytes =>
    rintro c a (rfl | rfl) ha
    · exact exec_pstInit_readCell h ha
    · exact exec_pstResetAll_readCell h ha
  case setBytes =>
    rintro c x v a rfl ha
    exact ⟨exec_pstSet_readCell h ha, hrun.job rfl⟩
  case reads =>
    rintro c x (rfl | rfl | rfl)
    all_goals exact ⟨exec_sameBlock h rfl rfl rfl rfl rfl, hrun.job rfl⟩
  case wait =>
    rintro c rfl
    exact ⟨hunit.spe rfl, hunit.csm rfl, hrun.job rfl, exec_sameBytes h rfl, exec_sysWait_acq h⟩
  case serial =>
    rintro c rfl
    exact ⟨hunit.acq rfl, hunit.spe rfl, hunit.csm rfl, hrun.job rfl, exec_sameBytes h rfl⟩
  case restart =>
    rintro c rfl
    exact exec_sysRestart_state h

end Sys2Proof.Machine
end

section
/-! The running counter of CSM (R36, R142): `CSM.PROCESS` tests one threshold and moves one counter, those of the
decision it finds. The two branches of R142 mirror each other, so what a call does is said once over the decision. -/

namespace Sys2Proof

/-- The decision a transition leads to (R35). -/
def Decision.other : Decision → Decision
  | .opened => .closed
  | .closed => .opened

@[simp] theorem Decision.other_ne_self (d : Decision) : d.other ≠ d := by
  cases d <;> nofun

@[simp] theorem Decision.self_ne_other (d : Decision) : d ≠ d.other :=
  d.other_ne_self.symm

end Sys2Proof

namespace Sys2Proof.Machine

/-- The counter that runs under a decision (R36): the above-counter while Open, the below-counter while Closed. -/
def Csm.running (k : Csm) : Decision → Element Nat
  | .opened => k.above
  | .closed => k.below

/-- The counter that runs under a decision, written. -/
def Csm.withRunning (k : Csm) (d : Decision) (e : Element Nat) : Csm :=
  match d with
  | .opened => { k with above := e }
  | .closed => { k with below := e }

/-- CSM with its decision written. -/
def Csm.withRd (k : Csm) (d : Decision) : Csm :=
  { k with rd := .written d }

/-- CSM with its mode and its blink phase replaced, the two elements that `CSM.PROCESS` does not read. -/
def Csm.withPhase (k : Csm) (m : Element Mode) (b : Element Nat) : Csm :=
  { k with mode := m, blink := b }

/-- The delay of the transition out of a decision (R142). -/
def delayFor (on off : Word) : Decision → Nat
  | .opened => on.toNat
  | .closed => off.toNat

/-- The power reaches the one threshold that is tested under a decision, inclusively (R142). -/
def reaches (c : Config) (power high low : RealNum) : Decision → Bool
  | .opened => (numOf c).le high power
  | .closed => (numOf c).le power low

/-- The branch of `CSM.PROCESS` for a decision (R142), from the value of its running counter. -/
def processBranch (c : Config) (k : Csm) (power high low : RealNum) (on off : Word) (n : Nat) : Decision → Csm
  | .opened => processOpen c k power high n on.toNat
  | .closed => processClosed c k power low n off.toNat

section
variable (k : Csm) (d d' : Decision) (e : Element Nat)

@[simp] theorem Csm.running_withRunning :
    (k.withRunning d e).running d' = if d' = d then e else k.running d' := by
  cases d <;> cases d' <;> rfl

@[simp] theorem Csm.running_withRd : (k.withRd d).running d' = k.running d' := by
  cases d' <;> rfl

@[simp] theorem Csm.withRd_rd : (k.withRd d).rd = .written d := rfl

@[simp] theorem Csm.withRunning_rd : (k.withRunning d e).rd = k.rd := by
  cases d <;> rfl

end

section
variable {c : Config} {k : Csm} {power high low : RealNum} {on off : Word} {n : Nat} {d : Decision}

/-- One call too many at the threshold: the transition, which zeroes the other counter (R142). -/
theorem processBranch_switches (h : reaches c power high low d = true)
    (hlt : delayFor on off d < incCounter c n) :
    processBranch c k power high low on off n d =
      ((k.withRunning d (.written (incCounter c n))).withRunning d.other (.written 0)).withRd d.other := by
  cases d with
  | opened => exact (if_pos h).trans (if_pos hlt)
  | closed => exact (if_pos h).trans (if_pos hlt)

/-- At the threshold, with the delay not passed, the running counter counts (R142, R146). -/
theorem processBranch_counts (h : reaches c power high low d = true)
    (hle : incCounter c n ≤ delayFor on off d) :
    processBranch c k power high low on off n d = k.withRunning d (.written (incCounter c n)) := by
  cases d with
  | opened => exact (if_pos h).trans (if_neg hle.not_gt)
  | closed => exact (if_pos h).trans (if_neg hle.not_gt)

/-- A miss zeroes the running counter where so configured, and does nothing else (R142, R144). -/
theorem processBranch_misses (h : reaches c power high low d = false) :
    processBranch c k power high low on off n d =
      if c.resetOnMiss = true then k.withRunning d (.written 0) else k := by
  cases d with
  | opened => exact if_neg (Bool.eq_false_iff.1 h)
  | closed => exact if_neg (Bool.eq_false_iff.1 h)

/-- `CSM.PROCESS` neither reads nor writes the mode and the blink phase (R35, R150). -/
theorem processBranch_withPhase (m : Element Mode) (b : Element Nat) :
    processBranch c (k.withPhase m b) power high low on off n d =
      (processBranch c k power high low on off n d).withPhase m b := by
  cases d with
  | opened =>
    simp only [processBranch, processOpen]
    split_ifs <;> rfl
  | closed =>
    simp only [processBranch, processClosed]
    split_ifs <;> rfl

theorem processBranch_processed (hd : k.rd = .written d) :
    Processed c k (processBranch c k power high low on off n d) := by
  have hrd : k.rd.isWritten = true := by rw [hd]; rfl
  cases d with
  | opened => exact processed_open hrd _ _ _ _
  | closed => exact processed_closed hrd _ _ _ _

end

end Sys2Proof.Machine
end

section
/-! CSM from a state where an operation may be presented (R141, R142, R147 to R149): the next state each operation
gives. -/

namespace Sys2Proof.Machine

@[simp] theorem answer_csm (s : State) (a b c : RspField) : (answer s a b c).csm = s.csm := rfl

theorem foregroundEvent_ready {s : State} (h : fgReady s) (body : Result) :
    foregroundEvent .fg s body = body := by
  obtain ⟨hc, ha, hj⟩ := h
  simp [foregroundEvent, hc, ha, hj]

theorem modeOperand_of_modeCode {w : Word} {m : Mode} (h : w.toNat = modeCode m) : modeOperand w = some m := by
  rw [modeOperand, unsignedOperand, h]
  cases m <;> rfl

theorem exec_csmInit_ready {s : State} (h : fgReady s) {mode : Word} {m : Mode} (hm : mode.toNat = modeCode m) :
    exec (.csmInit .fg mode) s = .next (answer
      (s.withCsm ⟨.written m, .written .opened, .written 0, .written 0, .written 0⟩) .none .none .none) := by
  refine (foregroundOp_ready h _).trans ?_
  rw [modeOperand_of_modeCode hm]
  rfl

/-- With delays in range and the decision and both counters written, a call runs the branch of its decision. -/
theorem exec_csmProcess_ready {s : State} (h : fgReady s) {power high low : RealNum} {on off : Word}
    (hon : on.toNat < 2 ^ s.cfg.cntBits) (hoff : off.toNat < 2 ^ s.cfg.cntBits) {d : Decision} {n n' : Nat}
    (hd : s.csm.rd = .written d) (hn : s.csm.running d = .written n)
    (hn' : s.csm.running d.other = .written n') :
    exec (.csmProcess .fg power high low on off) s = .next (answer
      (s.withCsm (processBranch s.cfg s.csm power high low on off n d)) .none .none .none) := by
  have hrange : ¬ (inUnsigned s.cfg.cntBits (unsignedOperand on)
      && inUnsigned s.cfg.cntBits (unsignedOperand off)) = false := by
    simp [inUnsigned, unsignedOperand, hon, hoff]
  refine (foregroundOp_ready h _).trans ((if_neg hrange).trans ?_)
  cases d with
  | opened =>
    have ha : s.csm.above = .written n := hn
    have hb : s.csm.below = .written n' := hn'
    rw [hd, ha, hb]
    rfl
  | closed =>
    have hb : s.csm.below = .written n := hn
    have ha : s.csm.above = .written n' := hn'
    rw [hd, ha, hb]
    rfl

/-- A call that completes has run the branch of its decision. -/
theorem exec_csmProcess_branch {ctx : Ctx} {power high low : RealNum} {on off : Word} {s t : State}
    (h : exec (.csmProcess ctx power high low on off) s = .next t) :
    fgReady s ∧ on.toNat < 2 ^ s.cfg.cntBits ∧ off.toNat < 2 ^ s.cfg.cntBits
      ∧ ∃ d n n', s.csm.rd = .written d ∧ s.csm.running d = .written n ∧ s.csm.running d.other = .written n'
        ∧ t = answer (s.withCsm (processBranch s.cfg s.csm power high low on off n d)) .none .none .none := by
  obtain ⟨hc, -, ha, hj, hon, hoff, d, a, b, hd, habove, hbelow, rfl⟩ := exec_csmProcess_next h
  refine ⟨⟨hc, ha, hj⟩, hon, hoff, ?_⟩
  cases d with
  | opened => exact ⟨.opened, a, b, hd, habove, hbelow, rfl⟩
  | closed => exact ⟨.closed, b, a, hd, hbelow, habove, rfl⟩

section
variable {s : State} (h : fgReady s)
include h

theorem changeMode_ready (cycle : Mode → Mode) {m : Mode} (hm : s.csm.mode = .written m) :
    foregroundEvent .fg s (changeMode cycle s) = .next (answer
      (s.withCsm (s.csm.withPhase (.written (cycle m)) (.written 0))) .none .none .none) := by
  rw [foregroundEvent_ready h, changeMode, hm]
  rfl

theorem exec_csmShort_ready {m : Mode} (hm : s.csm.mode = .written m) :
    exec (.csmShort .fg) s = .next (answer
      (s.withCsm (s.csm.withPhase (.written (shortPush m)) (.written 0))) .none .none .none) :=
  changeMode_ready h shortPush hm

theorem exec_csmLong_ready {m : Mode} (hm : s.csm.mode = .written m) :
    exec (.csmLong .fg) s = .next (answer
      (s.withCsm (s.csm.withPhase (.written (longPush m)) (.written 0))) .none .none .none) :=
  changeMode_ready h longPush hm

theorem exec_csmTick_ready {b : Nat} (hb : s.csm.blink = .written b) :
    exec (.csmTick .fg) s = .next (answer
      (s.withCsm (s.csm.withPhase s.csm.mode (.written (nextBlink s.cfg b)))) .none .none .none) := by
  refine (foregroundOp_ready h _).trans ?_
  rw [hb]
  rfl

theorem exec_csmTick_unwritten (hb : s.csm.blink = .unwritten) :
    exec (.csmTick .fg) s = .refused (.unwrittenElement "CSM.BLINK") := by
  refine (foregroundOp_ready h _).trans ?_
  rw [hb]
  rfl

end

/-- Settles O31: the operand is the code of the mode, and the code 3 is none. -/
theorem csmInitStartsOpen : Obligations.CsmInitStartsOpen := by
  refine fun s mode h => ⟨fun m hm => exec_csmInit_ready h hm, ?_⟩
  rintro rfl
  exact exec_csmInit_outOfRange h (le_refl 3)

/-- Settles O32: the call runs the branch of the decision it finds, from that decision's counter. -/
theorem csmProcessRunsOneBranch : Obligations.CsmProcessRunsOneBranch := by
  intro s power high low on off rd above below h hon hoff hrd ha hb
  cases rd with
  | opened => exact exec_csmProcess_ready h hon hoff hrd ha hb
  | closed => exact exec_csmProcess_ready h hon hoff hrd hb ha

/-- Settles O36: a push and a tick write the mode and the phase, from those they find written. -/
theorem buttonPushesAndTicksMoveModeAndPhase : Obligations.ButtonPushesAndTicksMoveModeAndPhase := by
  refine fun s h => ⟨fun m hm => ?_, fun b => exec_csmTick_ready h, exec_csmTick_unwritten h⟩
  rw [exec_csmShort_ready h hm, exec_csmLong_ready h hm]
  cases m <;> exact ⟨rfl, rfl⟩

end Sys2Proof.Machine
end

section
/-! The outputs (R151, R152): functions of the mode, the decision and the blink phase once these are written. -/

namespace Sys2Proof.Machine

section
variable {s : State} {m : Mode} {d : Decision} {b : Nat} (hm : s.csm.mode = .written m)
  (hd : s.csm.rd = .written d) (hb : s.csm.blink = .written b)
include hm hd hb

theorem relayOut_written : relayOut s = relayLevel m d := by
  rw [relayOut, hm, hd, hb]

theorem indOut_written : indOut s = indicatorLevel s.cfg m b := by
  rw [indOut, hm, hd, hb]

end

/-- Settles O37: the levels of the written elements. -/
theorem outputsFollowModeDecisionAndPhase : Obligations.OutputsFollowModeDecisionAndPhase := by
  intro s m d b hm hd hb
  rw [relayOut_written hm hd hb, indOut_written hm hd hb]
  cases m <;> exact ⟨rfl, rfl⟩

/-- The blink period begins lit (R9, R152). -/
theorem indicatorLevel_auto_zero {c : Config} (h : wellFormed c = true) : indicatorLevel c .auto 0 = true := by
  obtain ⟨-, -, -, -, -, -, hT, -⟩ := wellFormed_bounds h
  exact decide_eq_true hT

theorem csm_of_csmShort {ctx : Ctx} {s t : State} {m : Mode} (hm : s.csm.mode = .written m)
    (h : exec (.csmShort ctx) s = .next t) : t.csm = s.csm.withPhase (.written (shortPush m)) (.written 0) := by
  obtain ⟨-, -, -, -, m', hm', rfl⟩ := exec_csmShort_next h
  cases hm.symm.trans hm'
  rfl

theorem csm_of_csmLong {ctx : Ctx} {s t : State} {m : Mode} (hm : s.csm.mode = .written m)
    (h : exec (.csmLong ctx) s = .next t) : t.csm = s.csm.withPhase (.written (longPush m)) (.written 0) := by
  obtain ⟨-, -, -, -, m', hm', rfl⟩ := exec_csmLong_next h
  cases hm.symm.trans hm'
  rfl

/-- A push keeps the decision, and the outputs are those of its mode at the start of the blink period. -/
theorem outputs_of_withPhase {t : State} {k : Csm} {m : Mode} {d : Decision}
    (hk : t.csm = k.withPhase (.written m) (.written 0)) (hd : k.rd = .written d) :
    t.csm.rd = .written d ∧ t.csm.mode = .written m ∧ relayOut t = relayLevel m d
      ∧ indOut t = indicatorLevel t.cfg m 0 := by
  have hrd : t.csm.rd = .written d := by rw [hk]; exact hd
  have hmode : t.csm.mode = .written m := by rw [hk]; rfl
  have hblink : t.csm.blink = .written 0 := by rw [hk]; rfl
  exact ⟨hrd, hmode, relayOut_written hmode hrd hblink, indOut_written hmode hrd hblink⟩

/-- Settles O38: a push keeps the decision and begins the blink period, so the outputs are those of the new mode. -/
theorem modeTransitionTable : Obligations.ModeTransitionTable := by
  intro s t c m d hm hd
  refine ⟨fun h => ?short, fun h => ?long⟩
  case short =>
    obtain ⟨hrd, hmode, hrelay, hind⟩ := outputs_of_withPhase (csm_of_csmShort hm h) hd
    rw [hrd, hmode, hrelay, hind]
    cases m <;> exact ⟨rfl, rfl, rfl, rfl⟩
  case long =>
    obtain ⟨hrd, hmode, hrelay, hind⟩ := outputs_of_withPhase (csm_of_csmLong hm h) hd
    rw [hrd, hmode, hrelay, hind, (exec_frame h).cfg]
    cases m with
    | off | on => exact ⟨rfl, rfl, (Bool.false_or _).symm, indicatorLevel_auto_zero (exec_next_wellFormed h)⟩
    | auto => exact ⟨rfl, rfl, rfl, rfl⟩

end Sys2Proof.Machine
end

section
/-! Hysteresis and debounce (R145, R150, R153): what calls of `CSM.PROCESS` do to the decision and to the counter
that runs under it. -/

namespace Sys2Proof.Machine

section
variable {c : Config} {k : Csm} {power high low : RealNum} {on off : Word} {n : Nat} {d : Decision}

theorem reaches_eq_false (hhi : (numOf c).le high power = false) (hlo : (numOf c).le power low = false)
    (d : Decision) : reaches c power high low d = false := by
  cases d with
  | opened => exact hhi
  | closed => exact hlo

/-- A miss leaves each counter as it was, or at 0. -/
theorem processBranch_miss_running (h : reaches c power high low d = false) (d' : Decision) :
    (processBranch c k power high low on off n d).running d' = k.running d'
      ∨ (processBranch c k power high low on off n d).running d' = .written 0 := by
  rw [processBranch_misses h]
  split_ifs
  · rw [Csm.running_withRunning]
    split_ifs
    · exact .inr rfl
    · exact .inl rfl
  · exact .inl rfl

/-- A miss keeps the decision. -/
theorem processBranch_miss_rd (h : reaches c power high low d = false) :
    (processBranch c k power high low on off n d).rd = k.rd := by
  rw [processBranch_misses h]
  split_ifs
  · exact Csm.withRunning_rd _ _ _
  · rfl

/-- The counters are inside their delays as seen from the decision: the one that runs is at most its delay. -/
def RunningInside (on off : Word) (k : Csm) : Prop :=
  ∀ d n, k.rd = .written d → k.running d = .written n → n ≤ delayFor on off d

theorem countersInside_iff {s : State} : CountersInside on.toNat off.toNat s ↔ RunningInside on off s.csm := by
  constructor
  · rintro ⟨hopened, hclosed⟩ d n hd hn
    cases d with
    | opened => exact hopened hd n hn
    | closed => exact hclosed hd n hn
  · exact fun h => ⟨fun hd n => h .opened n hd, fun hd n => h .closed n hd⟩

theorem runningInside_of_written (hd : k.rd = .written d) (hn : k.running d = .written n)
    (hle : n ≤ delayFor on off d) : RunningInside on off k := by
  intro d' n' hd' hn'
  cases hd.symm.trans hd'
  cases hn.symm.trans hn'
  exact hle

theorem RunningInside.congr {k' : Csm} (hin : RunningInside on off k) (hrd : k'.rd = k.rd)
    (habove : k'.above = k.above) (hbelow : k'.below = k.below) : RunningInside on off k' := by
  intro d n hd hn
  refine hin d n (hrd.symm.trans hd) (Eq.trans ?_ hn)
  cases d with
  | opened => exact habove.symm
  | closed => exact hbelow.symm

/-- A counter that passes its delay switches the decision, and the counter that runs then starts at 0. -/
theorem processBranch_keeps_runningInside (hd : k.rd = .written d) (hin : RunningInside on off k) :
    RunningInside on off (processBranch c k power high low on off n d) := by
  cases hr : reaches c power high low d with
  | true =>
    obtain hlt | hle := lt_or_ge (delayFor on off d) (incCounter c n)
    · rw [processBranch_switches hr hlt]
      exact runningInside_of_written (Csm.withRd_rd _ _) (n := 0) (by simp) (Nat.zero_le _)
    · rw [processBranch_counts hr hle]
      exact runningInside_of_written (by simpa using hd) (by simp) hle
  | false =>
    rw [processBranch_misses hr]
    split_ifs
    · exact runningInside_of_written (n := 0) (by simpa using hd) (by simp) (Nat.zero_le _)
    · exact hin

end

/-- Settles O33: neither threshold is reached, so whichever the decision is, the call misses. -/
theorem hysteresisBandChangesNoDecision : Obligations.HysteresisBandChangesNoDecision := by
  intro s t c power high low on off hhi hlo h
  obtain ⟨-, -, -, d, n, -, hd, -, -, rfl⟩ := exec_csmProcess_branch h
  have hmiss := reaches_eq_false hhi hlo d
  exact ⟨processBranch_miss_rd hmiss, (processBranch_processed hd).mode, processBranch_miss_running hmiss .opened,
    processBranch_miss_running hmiss .closed,
    fun hkeep => (processBranch_misses hmiss).trans (if_neg (Bool.eq_false_iff.1 hkeep))⟩

/-- Settles O35: a call keeps the running counter inside, `CSM.INIT` starts it at 0, and every other operation
keeps the decision and the counters, or makes them unwritten. -/
theorem runningCounterStaysInsideItsDelay : Obligations.RunningCounterStaysInsideItsDelay := by
  intro i s t on off _ _ hdelays hin h
  rw [countersInside_iff] at hin ⊢
  cases i with
  | csmProcess c power high low x y =>
    obtain ⟨rfl, rfl⟩ := hdelays _ _ _ _ _ _ rfl
    obtain ⟨-, -, -, d, n, -, hd, -, -, rfl⟩ := exec_csmProcess_branch h
    exact processBranch_keeps_runningInside hd hin
  | csmInit =>
    obtain ⟨-, -, -, -, m, -, rfl⟩ := exec_csmInit_next h
    exact runningInside_of_written (d := .opened) (n := 0) rfl rfl (Nat.zero_le _)
  | sysRestart =>
    obtain ⟨-, rfl⟩ := exec_sysRestart_next h
    exact fun d n hd => nomatch hd
  | _ =>
    have hkept := mt ((exec_csmStep h).decision_changed nofun nofun) (by rintro ⟨_, _, _, _, _, _, ⟨⟩⟩)
    push Not at hkept
    obtain ⟨hrd, habove, hbelow⟩ := hkept
    exact hin.congr hrd habove hbelow

/-! ### Calls at the threshold -/

/-- Between the calls of a debounce: the decision, the count of the calls so far, and a written other counter. -/
structure CountedTo (C : Config) (d : Decision) (n : Nat) (s : State) : Prop where
  cfg : s.cfg = C
  ready : fgReady s
  rd : s.csm.rd = .written d
  running : s.csm.running d = .written n
  resting : ∃ n', s.csm.running d.other = .written n'

theorem incCounter_of_lt {c : Config} {n : Nat} (h : n + 1 < 2 ^ c.cntBits) : incCounter c n = n + 1 :=
  Nat.mod_eq_of_lt h

section
variable {C : Config} {d : Decision} {n : Nat} {s : State} {power high low : RealNum} {on off : Word}
  (hon : on.toNat < 2 ^ C.cntBits) (hoff : off.toNat < 2 ^ C.cntBits)
  (hwrap : delayFor on off d < 2 ^ C.cntBits - 1)
include hon hoff hwrap

/-- A call at the threshold that the delay still admits counts it. -/
theorem CountedTo.process_counts (h : CountedTo C d n s) (hr : reaches C power high low d = true)
    (hn : n < delayFor on off d) :
    ∃ t, exec (.csmProcess .fg power high low on off) s = .next t ∧ CountedTo C d (n + 1) t := by
  obtain ⟨rfl, hready, hd, hrun, n', hrest⟩ := h
  have hinc : incCounter s.cfg n = n + 1 := incCounter_of_lt (by omega)
  refine ⟨_, exec_csmProcess_ready hready hon hoff hd hrun hrest, ?_⟩
  rw [processBranch_counts hr (by omega), hinc]
  exact ⟨rfl, hready, by simpa using hd, by simp, n', by simpa using hrest⟩

/-- The call after the delay's last one switches the decision. -/
theorem CountedTo.process_switches (h : CountedTo C d n s) (hr : reaches C power high low d = true)
    (hn : n = delayFor on off d) :
    ∃ t, exec (.csmProcess .fg power high low on off) s = .next t ∧ t.csm.rd = .written d.other
      ∧ t.csm.running d = .written (n + 1) := by
  obtain ⟨rfl, hready, hd, hrun, n', hrest⟩ := h
  have hinc : incCounter s.cfg n = n + 1 := incCounter_of_lt (by omega)
  refine ⟨_, exec_csmProcess_ready hready hon hoff hd hrun hrest, ?_⟩
  rw [processBranch_switches hr (by omega), hinc]
  exact ⟨rfl, by simp⟩

/-- Calls at the threshold switch the decision at the call number delay + 1 and not earlier (R153). -/
theorem CountedTo.execAll_processCalls (h : CountedTo C d n s) {powers : List RealNum}
    (hr : ∀ p ∈ powers, reaches C p high low d = true) (hn : n ≤ delayFor on off d)
    (hlen : n + powers.length ≤ delayFor on off d + 1) :
    ∃ t, execAll (processCalls powers high low on off) s = .next t
      ∧ t.csm.rd = .written (if n + powers.length = delayFor on off d + 1 then d.other else d)
      ∧ t.csm.running d = .written (n + powers.length) := by
  induction powers generalizing s n with
  | nil => exact ⟨s, rfl, h.rd.trans (by rw [if_neg (by simp; omega)]), h.running⟩
  | cons p ps ih =>
    obtain ⟨hp, hps⟩ := List.forall_mem_cons.1 hr
    rw [List.length_cons] at hlen ⊢
    obtain hlt | heq := Nat.lt_or_eq_of_le hn
    · obtain ⟨u, hcall, hu⟩ := h.process_counts hon hoff hwrap hp hlt
      obtain ⟨t, ht, hrd, hrun⟩ := ih hu hps (by omega) (by omega)
      rw [show n + (ps.length + 1) = n + 1 + ps.length by omega]
      exact ⟨t, execAll_cons_next.2 ⟨u, hcall, ht⟩, hrd, hrun⟩
    · obtain rfl : ps = [] := List.length_eq_zero_iff.1 (by omega)
      obtain ⟨t, hcall, hrd, hrun⟩ := h.process_switches hon hoff hwrap hp heq
      exact ⟨t, execAll_cons_next.2 ⟨t, hcall, rfl⟩, hrd.trans (by rw [if_pos (by simp; omega)]), hrun⟩

theorem CountedTo.execAll_processCalls_of_zero (h : CountedTo C d 0 s) {powers : List RealNum}
    (hr : ∀ p ∈ powers, reaches C p high low d = true) (hlen : powers.length ≤ delayFor on off d + 1) :
    ∃ t, execAll (processCalls powers high low on off) s = .next t
      ∧ t.csm.rd = .written (if powers.length = delayFor on off d + 1 then d.other else d)
      ∧ t.csm.running d = .written powers.length := by
  have hrun := h.execAll_processCalls hon hoff hwrap hr (Nat.zero_le _) (by rwa [Nat.zero_add])
  rwa [Nat.zero_add] at hrun

end

/-- Settles O34: calls at the threshold, counted from 0, under either decision. -/
theorem debounceTakesDelayPlusOneWindows : Obligations.DebounceTakesDelayPlusOneWindows := by
  refine ⟨fun s powers high low on off below h hon hoff hd ha hb hp hlen => ?opened,
    fun s powers high low on off above h hoff hon hd hb ha hp hlen => ?closed⟩
  case opened =>
    have hstart : CountedTo s.cfg .opened 0 s := ⟨rfl, h, hd, ha, below, hb⟩
    have hwrap : delayFor on off .opened < 2 ^ s.cfg.cntBits - 1 := hon
    exact hstart.execAll_processCalls_of_zero (by omega) hoff hwrap hp hlen
  case closed =>
    have hstart : CountedTo s.cfg .closed 0 s := ⟨rfl, h, hd, hb, above, ha⟩
    have hwrap : delayFor on off .closed < 2 ^ s.cfg.cntBits - 1 := hoff
    exact hstart.execAll_processCalls_of_zero hon (by omega) hwrap hp hlen

end Sys2Proof.Machine
end

section
/-! The mode operations and `CSM.PROCESS` commute (R150): each is a relation on CSM's elements, and the two write
different ones. -/

namespace Sys2Proof.Machine

/-- An operation of the foreground that changes CSM only, by a relation between its elements before and after. -/
def ActsOnCsm (i : Instr) (R : Config → Csm → Csm → Prop) : Prop :=
  ∀ s t, exec i s = .next t ↔
    fgReady s ∧ ∃ k, R s.cfg s.csm k ∧ t = answer (s.withCsm k) .none .none .none

/-- Two such operations leave CSM as the composed relation does. -/
theorem ActsOnCsm.execAll_pair {i j : Instr} {R Q : Config → Csm → Csm → Prop} (hi : ActsOnCsm i R)
    (hj : ActsOnCsm j Q) {s t : State} :
    execAll [i, j] s = .next t ↔ fgReady s ∧ ∃ k, Relation.Comp (R s.cfg) (Q s.cfg) s.csm k
      ∧ t = answer ((answer s .none .none .none).withCsm k) .none .none .none := by
  simp only [execAll_cons_next, execAll_nil, Host.Outcome.next.injEq]
  constructor
  · rintro ⟨_, hfirst, _, hsecond, rfl⟩
    obtain ⟨h, k, hk, rfl⟩ := (hi _ _).1 hfirst
    obtain ⟨-, k', hk', rfl⟩ := (hj _ _).1 hsecond
    exact ⟨h, k', ⟨k, hk, hk'⟩, rfl⟩
  · rintro ⟨h, k', ⟨k, hk, hk'⟩, rfl⟩
    exact ⟨_, (hi _ _).2 ⟨h, k, hk, rfl⟩, _, (hj _ _).2 ⟨h, k', hk', rfl⟩, rfl⟩

/-- What a mode operation makes of the mode and the blink phase (R147 to R149). -/
inductive PhaseMove (c : Config) : Instr → Element Mode → Element Nat → Element Mode → Element Nat → Prop
  | short (m : Mode) (b : Element Nat) :
    PhaseMove c (.csmShort .fg) (.written m) b (.written (shortPush m)) (.written 0)
  | long (m : Mode) (b : Element Nat) :
    PhaseMove c (.csmLong .fg) (.written m) b (.written (longPush m)) (.written 0)
  | tick (m : Element Mode) (b : Nat) :
    PhaseMove c (.csmTick .fg) m (.written b) m (.written (nextBlink c b))

/-- CSM before and after a mode operation. -/
def PhaseStep (i : Instr) (c : Config) (k k' : Csm) : Prop :=
  ∃ m b, PhaseMove c i k.mode k.blink m b ∧ k' = k.withPhase m b

/-- CSM before and after a call of `CSM.PROCESS` (R142). -/
def ProcessStep (power high low : RealNum) (on off : Word) (c : Config) (k k' : Csm) : Prop :=
  on.toNat < 2 ^ c.cntBits ∧ off.toNat < 2 ^ c.cntBits
    ∧ ∃ d n n', k.rd = .written d ∧ k.running d = .written n ∧ k.running d.other = .written n'
      ∧ k' = processBranch c k power high low on off n d

theorem actsOnCsm_phaseStep {i : Instr} (hi : i = .csmShort .fg ∨ i = .csmLong .fg ∨ i = .csmTick .fg) :
    ActsOnCsm i (PhaseStep i) := by
  refine fun s t => ⟨fun h => ?ran, ?runs⟩
  case ran =>
    obtain rfl | rfl | rfl := hi
    · obtain ⟨hc, -, ha, hj, m, hm, rfl⟩ := exec_csmShort_next h
      exact ⟨⟨hc, ha, hj⟩, _, ⟨_, _, hm ▸ .short m _, rfl⟩, rfl⟩
    · obtain ⟨hc, -, ha, hj, m, hm, rfl⟩ := exec_csmLong_next h
      exact ⟨⟨hc, ha, hj⟩, _, ⟨_, _, hm ▸ .long m _, rfl⟩, rfl⟩
    · obtain ⟨hc, -, ha, hj, b, hb, rfl⟩ := exec_csmTick_next h
      exact ⟨⟨hc, ha, hj⟩, _, ⟨_, _, hb ▸ .tick _ b, rfl⟩, rfl⟩
  case runs =>
    rintro ⟨h, _, ⟨m', b', hmove, rfl⟩, rfl⟩
    generalize hm : s.csm.mode = m at hmove
    generalize hb : s.csm.blink = b at hmove
    cases hmove with
    | short => exact exec_csmShort_ready h hm
    | long => exact exec_csmLong_ready h hm
    | tick =>
      rw [← hm]
      exact exec_csmTick_ready h hb

theorem actsOnCsm_processStep (power high low : RealNum) (on off : Word) :
    ActsOnCsm (.csmProcess .fg power high low on off) (ProcessStep power high low on off) := by
  refine fun s t => ⟨fun h => ?ran, ?runs⟩
  case ran =>
    obtain ⟨hready, hon, hoff, d, n, n', hd, hn, hn', rfl⟩ := exec_csmProcess_branch h
    exact ⟨hready, _, ⟨hon, hoff, d, n, n', hd, hn, hn', rfl⟩, rfl⟩
  case runs =>
    rintro ⟨hready, _, ⟨hon, hoff, d, n, n', hd, hn, hn', rfl⟩, rfl⟩
    exact exec_csmProcess_ready hready hon hoff hd hn hn'

@[simp] theorem Csm.running_withPhase (k : Csm) (m : Element Mode) (b : Element Nat) (d : Decision) :
    (k.withPhase m b).running d = k.running d := by
  cases d <;> rfl

/-- Each order goes through the same branch and the same move, as neither reads what the other writes. -/
theorem phaseStep_comp_processStep (i : Instr) (power high low : RealNum) (on off : Word) (c : Config) :
    Relation.Comp (PhaseStep i c) (ProcessStep power high low on off c)
      = Relation.Comp (ProcessStep power high low on off c) (PhaseStep i c) := by
  funext k k'
  refine propext ⟨?_, ?_⟩
  · rintro ⟨_, ⟨m, b, hmove, rfl⟩, hon, hoff, d, n, n', hd, hn, hn', rfl⟩
    rw [Csm.running_withPhase] at hn hn'
    have hp : Processed c k (processBranch c k power high low on off n d) := processBranch_processed hd
    exact ⟨_, ⟨hon, hoff, d, n, n', hd, hn, hn', rfl⟩, m, b, hp.mode.symm ▸ hp.blink.symm ▸ hmove,
      processBranch_withPhase m b⟩
  · rintro ⟨_, ⟨hon, hoff, d, n, n', hd, hn, hn', rfl⟩, m, b, hmove, rfl⟩
    have hp : Processed c k (processBranch c k power high low on off n d) := processBranch_processed hd
    rw [hp.mode, hp.blink] at hmove
    exact ⟨_, ⟨m, b, hmove, rfl⟩, hon, hoff, d, n, n', hd, by simpa using hn, by simpa using hn',
      (processBranch_withPhase m b).symm⟩

/-- Settles O40: the two orders compose the same relations on CSM, so they end in the same state. -/
theorem modeOperationsCommuteWithProcess : Obligations.ModeOperationsCommuteWithProcess := by
  intro i s t power high low on off hi
  have hphase := actsOnCsm_phaseStep hi
  have hprocess := actsOnCsm_processStep power high low on off
  have hsame : execAll [i, .csmProcess .fg power high low on off] s = .next t
      ↔ execAll [.csmProcess .fg power high low on off, i] s = .next t := by
    rw [hphase.execAll_pair hprocess, hprocess.execAll_pair hphase, phaseStep_comp_processStep]
  have hblock : sameBlock t t := ⟨rfl, rfl, rfl, rfl, rfl⟩
  exact ⟨fun h => ⟨t, hsame.1 h, hblock⟩, fun h => ⟨t, hsame.2 h, hblock⟩⟩

end Sys2Proof.Machine
end

section
/-! The values of the parameter store (R61, R62, R162 to R164): slots do not meet, and a slot gives back the value
that was stored in it. -/

namespace Sys2Proof.Machine

/-- A read that does not meet a write gives the bytes from before it. -/
theorem readLE_writeLE_outside (m : Memory) {a n a' n' : Nat} (v : Nat) (h : a' + n' ≤ a ∨ a + n ≤ a') :
    readLE (writeLE m a n v) a' n' = readLE m a' n' :=
  readLE_congr fun _ hlo hhi => readCell_writeLE_outside m v (by omega)

/-- The slots follow one another in index order (R61). -/
theorem slot_add_stride_le (c : Config) {i k : Nat} (h : i < k) : slot c i + c.stride ≤ slot c k := by
  have hle : c.stride * (i + 1) ≤ c.stride * k := Nat.mul_le_mul_left c.stride h
  rw [Nat.mul_succ] at hle
  unfold slot
  omega

/-- The checksum lies before every slot (R61). -/
theorem two_le_slot (c : Config) (i : Nat) : 2 ≤ slot c i :=
  Nat.le_add_right _ _

theorem slots_disjoint (c : Config) {i k : Nat} (h : i ≠ k) :
    slot c i + c.stride ≤ slot c k ∨ slot c k + c.stride ≤ slot c i :=
  (Nat.lt_or_gt_of_ne h).imp (slot_add_stride_le c) (slot_add_stride_le c)

theorem encodeValue_lt (c : Config) (v : Int) : encodeValue c v < 256 ^ c.stride := by
  have hpos : (0 : Int) < 2 ^ (8 * c.stride) := by positivity
  have hlt : v % (2 : Int) ^ (8 * c.stride) < ((256 ^ c.stride : Nat) : Int) := by
    rw [show (256 : Nat) = 2 ^ 8 from rfl, ← pow_mul]
    push_cast
    exact Int.emod_lt_of_pos v hpos
  have hnonneg := Int.emod_nonneg v hpos.ne'
  unfold encodeValue
  omega

/-- A slot holds the bytes last stored in it (R62). -/
theorem readLE_stored {m : Memory} (hm : Memory.wf m = true) (c : Config) (i : Nat) (v : Int) :
    readLE (writeLE m (slot c i) c.stride (encodeValue c v)) (slot c i) c.stride = encodeValue c v :=
  (readLE_writeLE hm _ _ _).trans (Nat.mod_eq_of_lt (encodeValue_lt c v))

theorem decodeValue_eq (c : Config) (raw : Nat) :
    decodeValue c raw = if c.pvalSigned then (BitVec.ofNat (8 * c.stride) raw).toInt else raw := by
  unfold decodeValue sext
  rw [BitVec.ofInt_natCast]

/-- Sign extension reads the low bits only (R11). -/
theorem sext_emod (w : Nat) (v : Int) : sext w (v % (2 : Int) ^ w) = sext w v := by
  have hmod : (v % ((2 ^ w : Nat) : Int)).bmod (2 ^ w) = v.bmod (2 ^ w) :=
    Int.emod_bmod v (2 ^ w)
  push_cast at hmod
  simp only [sext, BitVec.toInt_ofInt, hmod]

theorem wellFormed_stride_pos {c : Config} (h : wellFormed c = true) : 1 ≤ c.stride := by
  obtain ⟨-, -, -, -, -, -, -, -, -, hstride, -⟩ := wellFormed_bounds h
  omega

/-- A value the slots can hold is read back as it was stored (R162, R163). -/
theorem decodeValue_encodeValue {c : Config} (hc : wellFormed c = true) {v : Int} (h : storable c v = true) :
    decodeValue c (encodeValue c v) = v := by
  have hnonneg : 0 ≤ v % (2 : Int) ^ (8 * c.stride) := Int.emod_nonneg v (by positivity)
  have hraw : (encodeValue c v : Int) = v % (2 : Int) ^ (8 * c.stride) := Int.toNat_of_nonneg hnonneg
  have hwidth : 1 ≤ 8 * c.stride := by
    have := wellFormed_stride_pos hc
    omega
  unfold decodeValue
  rw [hraw]
  cases hsigned : c.pvalSigned with
  | true =>
    have hfits : inSigned (8 * c.stride) v = true := by simpa [storable, hsigned] using h
    exact (sext_emod _ v).trans (sext_of_inSigned hwidth le_rfl hfits)
  | false =>
    have hfits : 0 ≤ v ∧ v < (2 : Int) ^ (8 * c.stride) := by simpa [storable, hsigned] using h
    exact Int.emod_eq_of_lt hfits.1 hfits.2

end Sys2Proof.Machine
end

section
/-! PST from a state where an operation may be presented (R161 to R165): the next state each operation gives. -/

namespace Sys2Proof.Machine

/-- A named error is the response's status, and no element is written (R201). -/
theorem raiseError_answers (s : State) (st : Status) :
    ∃ t, raiseError s st = .next t ∧ lastStatus t = some st ∧ sameBlock s t :=
  ⟨_, rfl, rfl, rfl, rfl, rfl, rfl, rfl⟩

theorem raiseError_lastStatus {s t : State} {st : Status} (h : raiseError s st = .next t) :
    lastStatus t = some st := by
  rw [raiseError_next.1 h]
  rfl

/-- A well-formed table has an entry 0 (R9). -/
theorem exists_firstEntry {c : Config} (h : wellFormed c = true) : ∃ e, c.schema[0]? = some e := by
  obtain ⟨-, -, -, -, -, -, -, -, hcount, -⟩ := wellFormed_bounds h
  have hpos : 0 < c.schema.length := by
    unfold paramCount at hcount
    omega
  exact ⟨_, List.getElem?_eq_getElem hpos⟩

/-- The bounds of an entry are in order (R9). -/
theorem wellFormed_minimum_le_maximum {c : Config} (h : wellFormed c = true) {i : Nat} {e : ParamSchema}
    (he : c.schema[i]? = some e) : e.minimum ≤ e.maximum := by
  have hordered : schemaOrdered c.schema = true := by
    unfold wellFormed at h
    simp only [Bool.and_eq_true] at h
    tauto
  have hentry := List.all_eq_true.1 hordered e (List.mem_of_getElem? he)
  simp only [Bool.and_eq_true, decide_eq_true_eq] at hentry
  exact hentry.1.trans hentry.2

theorem storeStep_entry {s : State} {j : StoreJob} {e : ParamSchema} (hc : wellFormed s.cfg = true)
    (he : s.cfg.schema[j.next]? = some e) :
    storeStep j s = .next (((s.withNvm (writeLE s.nvm (slot s.cfg j.next) s.cfg.stride
      (encodeValue s.cfg e.default))).withJob (some ⟨j.next + 1, j.fromInit⟩)).withOut StepOutput.quiet) := by
  have hentry : schemaAt s.cfg j.next = some e := he
  rw [storeStep, hentry]
  exact storing_inside (slot_inside hc (schemaAt_lt hentry))

theorem storeWriter_running {s : State} (h : fgReady s) (hrun : s.acq.run = true) (body : Result) :
    storeWriter .fg s body = .refused .storeWhileRunning :=
  (foregroundOp_ready h _).trans (if_pos hrun)

section
variable {s : State} (h : fgReady s)
include h

theorem exec_pstGet_ready {index : Word} (hi : index.toNat < s.cfg.schema.length) :
    exec (.pstGet .fg index) s = .next (answer s
      (.int (decodeValue s.cfg (readLE s.nvm (slot s.cfg index.toNat) s.cfg.stride))) .none .none) := by
  have hentry : schemaAt s.cfg (unsignedOperand index) = some s.cfg.schema[index.toNat] :=
    List.getElem?_eq_getElem hi
  refine (foregroundOp_ready h _).trans ?_
  rw [hentry]
  exact loading_inside (slot_inside h.1 hi)

theorem exec_pstGet_outside {index : Word} (hi : s.cfg.schema.length ≤ index.toNat) :
    exec (.pstGet .fg index) s = raiseError s (.indexOutOfRange index.toNat) := by
  have hnone : schemaAt s.cfg (unsignedOperand index) = none := List.getElem?_eq_none hi
  refine (foregroundOp_ready h _).trans ?_
  rw [hnone]
  rfl

theorem exec_pstGetRange_ready {index : Word} {e : ParamSchema} (he : s.cfg.schema[index.toNat]? = some e) :
    exec (.pstGetRange .fg index) s = .next (answer s (.int e.minimum) (.int e.maximum) (.label e.label)) := by
  have hentry : schemaAt s.cfg (unsignedOperand index) = some e := he
  refine (foregroundOp_ready h _).trans ?_
  rw [hentry]
  rfl

theorem exec_pstGetRange_outside {index : Word} (hi : s.cfg.schema.length ≤ index.toNat) :
    exec (.pstGetRange .fg index) s = raiseError s (.indexOutOfRange index.toNat) := by
  have hnone : schemaAt s.cfg (unsignedOperand index) = none := List.getElem?_eq_none hi
  refine (foregroundOp_ready h _).trans ?_
  rw [hnone]
  rfl

end

section
variable {s : State} (h : fgReady s) (hrun : s.acq.run = false)
include h hrun

theorem storeWriter_stopped (body : Result) : storeWriter .fg s body = body :=
  (foregroundOp_ready h _).trans (if_neg (Bool.eq_false_iff.1 hrun))

theorem exec_pstSet_outside {index : Word} (hi : s.cfg.schema[index.toNat]? = none) (value : Word) :
    exec (.pstSet .fg index value) s = raiseError s (.indexOutOfRange index.toNat) := by
  have hnone : schemaAt s.cfg (unsignedOperand index) = none := hi
  refine (storeWriter_stopped h hrun _).trans ?_
  rw [hnone]
  rfl

/-- Of an entry of the table, too large is tested before too small, and a value inside the bounds is stored. -/
theorem exec_pstSet_entry {index : Word} {e : ParamSchema} (he : s.cfg.schema[index.toNat]? = some e)
    (value : Word) :
    exec (.pstSet .fg index value) s =
      if valueOperand s.cfg value > e.maximum then
        raiseError s (.valueTooLarge index.toNat (valueOperand s.cfg value))
      else if valueOperand s.cfg value < e.minimum then
        raiseError s (.valueTooSmall index.toNat (valueOperand s.cfg value))
      else
        .next (answer (s.withNvm (writeLE s.nvm (slot s.cfg index.toNat) s.cfg.stride
          (encodeValue s.cfg (valueOperand s.cfg value)))) .none .none .none) := by
  have hentry : schemaAt s.cfg (unsignedOperand index) = some e := he
  refine (storeWriter_stopped h hrun _).trans ?_
  rw [hentry]
  dsimp only
  rw [storing_inside (slot_inside h.1 (schemaAt_lt hentry))]
  rfl

theorem exec_pstInit_equal (hsum : readLE s.nvm 0 2 = (expectedChecksum s.cfg).toNat) :
    exec (.pstInit .fg) s = .next (answer s (.bits 1 0) .none .none) :=
  (storeWriter_stopped h hrun _).trans
    ((loading_inside (checksum_inside h.1)).trans (if_neg (not_not.2 hsum)))

theorem exec_pstInit_differs (hsum : readLE s.nvm 0 2 ≠ (expectedChecksum s.cfg).toNat) :
    exec (.pstInit .fg) s = storeStep ⟨0, true⟩ s :=
  (storeWriter_stopped h hrun _).trans ((loading_inside (checksum_inside h.1)).trans (if_pos hsum))

theorem exec_pstResetAll_ready : exec (.pstResetAll .fg) s = storeStep ⟨0, false⟩ s :=
  storeWriter_stopped h hrun _

end

/-- Settles O41: an index inside the table is loaded from its slot, any other is a named error. -/
theorem pstGetReturnsTheStoredValue : Obligations.PstGetReturnsTheStoredValue := by
  refine fun s index h => ⟨fun hi => ?_, fun hi => ?_⟩
  · rw [exec_pstGet_ready h hi, decodeValue_eq]
    rfl
  · rw [exec_pstGet_outside h hi]
    exact raiseError_answers _ _

/-- Settles O44: an entry is answered from the schema, an index outside the table is a named error. -/
theorem pstGetRangeReturnsTheBounds : Obligations.PstGetRangeReturnsTheBounds := by
  refine fun s index h => ⟨fun e he => exec_pstGetRange_ready h he, fun hi => ?_⟩
  rw [exec_pstGetRange_outside h hi]
  exact raiseError_answers _ _

/-- Settles O42: the three named errors in their order, and the write of an accepted value, which leaves every byte
outside the slot. -/
theorem pstSetChecksThenStores : Obligations.PstSetChecksThenStores := by
  refine fun s index value h hrun => ⟨fun hi => ?_, fun e he => ?_⟩
  · rw [exec_pstSet_outside h hrun hi]
    exact raiseError_answers _ _
  · rw [exec_pstSet_entry h hrun he]
    refine ⟨fun (hlarge : e.maximum < valueOperand s.cfg value) => ?_,
      fun (hsmall : valueOperand s.cfg value < e.minimum) => ?_,
      fun (hmin : e.minimum ≤ valueOperand s.cfg value) (hmax : valueOperand s.cfg value ≤ e.maximum) => ?_⟩
    · rw [if_pos hlarge]
      exact raiseError_answers _ _
    · rw [if_neg (not_lt.2 (hsmall.le.trans (wellFormed_minimum_le_maximum h.1 he))), if_pos hsmall]
      exact raiseError_answers _ _
    · rw [if_neg (not_lt.2 hmax), if_neg (not_lt.2 hmin)]
      exact ⟨rfl, fun _ ha => readCell_writeLE_outside _ _ ha⟩

/-- Settles O45: the checksum decides, and the first step of the reset stores the default of entry 0. -/
theorem pstInitComparesTheChecksum : Obligations.PstInitComparesTheChecksum := by
  intro s e h hrun he
  have hfirst := fun fromInit => storeStep_entry (j := ⟨0, fromInit⟩) h.1 he
  exact ⟨exec_pstInit_equal h hrun, fun hsum => (exec_pstInit_differs h hrun hsum).trans (hfirst true),
    (exec_pstResetAll_ready h hrun).trans (hfirst false)⟩

end Sys2Proof.Machine
end

section
/-! A value set is the value got (R164): what `PST.GET` answers is the slot's bytes, which `PST.SET` writes for its
own entry only. -/

namespace Sys2Proof.Machine

/-- A slot that holds a value it can give back is read as that value (R163). -/
theorem exec_pstGet_of_stored {s : State} {index : Word} {v : Int} (h : fgReady s)
    (hi : index.toNat < s.cfg.schema.length) (hv : storable s.cfg v = true)
    (hbytes : readLE s.nvm (slot s.cfg index.toNat) s.cfg.stride = encodeValue s.cfg v) :
    ∃ u, exec (.pstGet .fg index) s = .next u ∧ u.out.rsp = some ⟨.ok, .int v, .none, .none⟩ := by
  refine ⟨_, exec_pstGet_ready h hi, ?_⟩
  rw [hbytes, decodeValue_encodeValue h.1 hv]
  rfl

theorem exec_pstGet_response {index : Word} {s u : State} (hu : exec (.pstGet .fg index) s = .next u)
    (h : fgReady s) (hi : index.toNat < s.cfg.schema.length) :
    u.out.rsp = some ⟨.ok,
      .int (decodeValue s.cfg (readLE s.nvm (slot s.cfg index.toNat) s.cfg.stride)), .none, .none⟩ := by
  cases (exec_pstGet_ready h hi).symm.trans hu
  rfl

/-- The status `OK` of a `PST.GET` says that the index is one of the table. -/
theorem exec_pstGet_ok {c : Ctx} {index : Word} {s u : State} (h : exec (.pstGet c index) s = .next u)
    (hok : lastStatus u = some .ok) : fgReady s ∧ index.toNat < s.cfg.schema.length := by
  obtain ⟨hc, -, ha, hj, ⟨-, hr⟩ | ⟨⟨_, he⟩, -⟩⟩ := exec_pstGet_next h
  · rw [raiseError_lastStatus hr] at hok
    cases hok
  · exact ⟨⟨hc, ha, hj⟩, schemaAt_lt he⟩

/-- The status `OK` of a `PST.SET` says that the value was stored. -/
theorem exec_pstSet_ok {c : Ctx} {index value : Word} {s t : State}
    (h : exec (.pstSet c index value) s = .next t) (hok : lastStatus t = some .ok) :
    fgReady s ∧ index.toNat < s.cfg.schema.length
      ∧ t = answer (s.withNvm (writeLE s.nvm (slot s.cfg index.toNat) s.cfg.stride
        (encodeValue s.cfg (valueOperand s.cfg value)))) .none .none .none := by
  obtain ⟨hc, -, ha, hj, -, ⟨st, hst, hr⟩ | ⟨_, he, -, -, -, ht⟩⟩ := exec_pstSet_next h
  · rw [raiseError_lastStatus hr] at hok
    exact (hst (Option.some.inj hok)).elim
  · exact ⟨⟨hc, ha, hj⟩, schemaAt_lt he, ht⟩

/-- Settles O43: the slot set holds the encoded value, and no other slot meets it. -/
theorem setThenGetReturnsTheValue : Obligations.SetThenGetReturnsTheValue := by
  intro s t index value hm hfit hset hok
  obtain ⟨hready, hi, rfl⟩ := exec_pstSet_ok hset hok
  refine ⟨exec_pstGet_of_stored hready hi hfit (readLE_stored hm s.cfg index.toNat _),
    fun k hk u w hu hw huok => ?_⟩
  obtain ⟨-, hik⟩ := exec_pstGet_ok hu huok
  have hne : k.toNat ≠ index.toNat := fun heq => hk (BitVec.eq_of_toNat_eq heq)
  have hsame : readLE (writeLE s.nvm (slot s.cfg index.toNat) s.cfg.stride
      (encodeValue s.cfg (valueOperand s.cfg value))) (slot s.cfg k.toNat) s.cfg.stride
        = readLE s.nvm (slot s.cfg k.toNat) s.cfg.stride :=
    readLE_writeLE_outside _ _ (slots_disjoint s.cfg hne)
  rw [exec_pstGet_response hu hready hik, exec_pstGet_response hw hready hik]
  simp [answer_eq, hsame]

end Sys2Proof.Machine
end

section
/-! The store reset as a whole (R162): how far it has come, whatever began it; that it ends when nothing cuts it,
and what it leaves then. -/

namespace Sys2Proof.Machine

/-- The entries before `n` hold their defaults, and every other byte is that of the memory `m₀`. -/
structure DefaultsWritten (c : Config) (m₀ : Memory) (n : Nat) (m : Memory) : Prop where
  bound : n ≤ c.schema.length
  canonical : Memory.wf m = true
  defaults : ∀ i e, i < n → c.schema[i]? = some e →
    readLE m (slot c i) c.stride = encodeValue c e.default
  others : ∀ a, a < 2 ∨ slot c n ≤ a → readCell m a = readCell m₀ a

theorem defaultsWritten_zero (c : Config) {m : Memory} (hm : Memory.wf m = true) : DefaultsWritten c m 0 m :=
  ⟨Nat.zero_le _, hm, nofun, fun _ _ => rfl⟩

/-- The next default keeps those before it, and the bytes outside its slot. -/
theorem DefaultsWritten.write {c : Config} {m₀ m : Memory} {n : Nat} {e : ParamSchema}
    (h : DefaultsWritten c m₀ n m) (he : c.schema[n]? = some e) :
    DefaultsWritten c m₀ (n + 1) (writeLE m (slot c n) c.stride (encodeValue c e.default)) where
  bound := schemaAt_lt he
  canonical := wf_writeLE h.canonical _ _ _
  defaults i e' hi he' := by
    obtain hlt | rfl := Nat.lt_succ_iff_lt_or_eq.1 hi
    · exact (readLE_writeLE_outside _ _ (.inl (slot_add_stride_le c hlt))).trans (h.defaults i e' hlt he')
    · cases he.symm.trans he'
      exact readLE_stored h.canonical c i _
  others a ha := by
    have hnext : slot c n + c.stride ≤ slot c (n + 1) := slot_add_stride_le c n.lt_succ_self
    have hfirst : 2 ≤ slot c n := two_le_slot c n
    rw [readCell_writeLE_outside _ _ (by omega)]
    exact h.others a (by omega)

/-- Nothing but the memory, the operation in progress and the response has changed. -/
structure BlocksKept (s t : State) : Prop where
  acq : t.acq = s.acq
  spe : t.spe = s.spe
  csm : t.csm = s.csm
  asleep : t.asleep = s.asleep
  cfg : t.cfg = s.cfg

/-- From the state `s` a store reset has written the defaults before `n`, and not the checksum. -/
structure ResetProgress (s : State) (n : Nat) (t : State) : Prop extends BlocksKept s t where
  memory : DefaultsWritten s.cfg s.nvm n t.nvm

/-- A store reset from the state `s` has ended (R162). -/
structure ResetDone (s : State) (fromInit : Bool) (t : State) : Prop extends BlocksKept s t where
  job : t.job = none
  response : t.out.rsp = some ⟨.ok, if fromInit then .bits 1 1 else .none, .none, .none⟩
  canonical : Memory.wf t.nvm = true
  checksum : readLE t.nvm 0 2 = (expectedChecksum s.cfg).toNat
  defaults : ∀ i e, s.cfg.schema[i]? = some e →
    readLE t.nvm (slot s.cfg i) s.cfg.stride = encodeValue s.cfg e.default
  tail : ∀ a, slot s.cfg s.cfg.schema.length ≤ a → readCell t.nvm a = readCell s.nvm a

theorem ResetDone.ready {s t : State} {fromInit : Bool} (h : ResetDone s fromInit t) (hs : fgReady s) :
    fgReady t := by
  obtain ⟨hc, ha, -⟩ := hs
  exact ⟨h.cfg ▸ hc, h.asleep.trans ha, h.job⟩

theorem resetProgress_zero {s : State} (hm : Memory.wf s.nvm = true) : ResetProgress s 0 s :=
  ⟨⟨rfl, rfl, rfl, rfl, rfl⟩, defaultsWritten_zero s.cfg hm⟩

section
variable {s t u : State} {n : Nat} {fromInit : Bool}

/-- With all defaults written, the checksum ends the reset. -/
theorem ResetProgress.done (h : ResetProgress s s.cfg.schema.length t) :
    ResetDone s fromInit (answer ((t.withNvm (writeLE t.nvm 0 2 (expectedChecksum t.cfg).toNat)).withJob none)
      (if fromInit then .bits 1 1 else .none) .none .none) where
  toBlocksKept := ⟨h.acq, h.spe, h.csm, h.asleep, h.cfg⟩
  job := rfl
  response := rfl
  canonical := wf_writeLE h.memory.canonical _ _ _
  checksum := by
    rw [← h.cfg]
    exact (readLE_writeLE h.memory.canonical 0 2 _).trans (Nat.mod_eq_of_lt (expectedChecksum t.cfg).isLt)
  defaults i e he :=
    (readLE_writeLE_outside _ _ (.inr (two_le_slot s.cfg i))).trans
      (h.memory.defaults i e (schemaAt_lt he) he)
  tail a ha := by
    have hpast : 0 + 2 ≤ a := (two_le_slot _ _).trans ha
    exact (readCell_writeLE_outside _ _ (.inr hpast)).trans (h.memory.others a (.inr ha))

/-- One step of the reset writes the next default or, when there is none left, ends it. -/
theorem ResetProgress.storeStep_cases (h : ResetProgress s n t) (hs : storeStep ⟨n, fromInit⟩ t = .next u) :
    u.job = some ⟨n + 1, fromInit⟩ ∧ ResetProgress s (n + 1) u ∨ ResetDone s fromInit u := by
  obtain ⟨e, he, -, rfl⟩ | ⟨hnone, -, rfl⟩ := storeStep_next hs
  · rw [h.cfg] at he
    refine .inl ⟨rfl, ⟨h.acq, h.spe, h.csm, h.asleep, h.cfg⟩, ?_⟩
    rw [h.cfg]
    exact h.memory.write he
  · rw [h.cfg] at hnone
    obtain rfl : n = s.cfg.schema.length := h.memory.bound.antisymm (List.getElem?_eq_none_iff.1 hnone)
    exact .inr h.done

theorem exists_storeStep (hc : wellFormed s.cfg = true) (j : StoreJob) : ∃ t, storeStep j s = .next t := by
  cases he : s.cfg.schema[j.next]? with
  | some e => exact ⟨_, storeStep_entry hc he⟩
  | none =>
    have hnone : schemaAt s.cfg j.next = none := he
    rw [storeStep, hnone]
    exact ⟨_, storing_inside (checksum_inside hc)⟩

/-- A reset that nothing cuts ends, once it is given a step for each write that is left (R162). -/
theorem ResetProgress.runs_to_end {k : Nat} (hc : wellFormed s.cfg = true) (hrun : s.acq.run = false)
    (h : ResetProgress s n t) (hs : storeStep ⟨n, fromInit⟩ t = .next u)
    (hk : s.cfg.schema.length ≤ n + k) :
    ∃ v, storeSteps k u = .next v ∧ ResetDone s fromInit v := by
  induction k generalizing n t u with
  | zero =>
    obtain ⟨-, hnext⟩ | hdone := h.storeStep_cases hs
    · have hbound := hnext.memory.bound
      omega
    · exact ⟨u, rfl, hdone⟩
  | succ k ih =>
    obtain ⟨hj, hnext⟩ | hdone := h.storeStep_cases hs
    · have hcu : wellFormed u.cfg = true := hnext.cfg ▸ hc
      have hrunu : u.acq.run = false := hnext.acq ▸ hrun
      obtain ⟨u', hs'⟩ := exists_storeStep hcu ⟨n + 1, fromInit⟩
      rw [storeSteps_succ, storeOnce_busy hj, continueStore_stopped hcu hrunu, hs', andThen_next]
      exact ih hnext hs' (by omega)
    · exact ⟨u, storeSteps_idle hdone.job _, hdone⟩

/-- At every point of a reset its position says how far it has come (R65). -/
theorem storeSteps_progress {k : Nat} {j j' : StoreJob} (h : ResetProgress s j.next t) (hj : t.job = some j)
    (hk : storeSteps k t = .next u) (hj' : u.job = some j') : ResetProgress s j'.next u := by
  induction k generalizing j t with
  | zero =>
    cases hk
    cases hj.symm.trans hj'
    exact h
  | succ k ih =>
    rw [storeSteps_succ, storeOnce_busy hj, andThen_eq_next] at hk
    obtain ⟨t', hstep, hk⟩ := hk
    obtain ⟨-, -, hs⟩ := continueStore_next.1 hstep
    obtain ⟨hjob, hnext⟩ | hdone := h.storeStep_cases hs
    · exact ih (j := ⟨j.next + 1, j.fromInit⟩) hnext hjob hk
    · rw [storeSteps_idle hdone.job] at hk
      cases hk
      cases hdone.job.symm.trans hj'

end

theorem execWhole_eq {i : Instr} {s t : State} (h : exec i s = .next t) :
    execWhole i s = storeSteps (paramCount s.cfg + 1) t := by
  rw [execWhole, h, andThen_next, (exec_frame h).cfg]

/-- An operation that begins with the first step of a reset completes it. -/
theorem execWhole_reset {i : Instr} {s : State} {fromInit : Bool} (hc : wellFormed s.cfg = true)
    (hrun : s.acq.run = false) (hm : Memory.wf s.nvm = true) (hi : exec i s = storeStep ⟨0, fromInit⟩ s) :
    ∃ t, execWhole i s = .next t ∧ ResetDone s fromInit t := by
  obtain ⟨t, hs⟩ := exists_storeStep hc ⟨0, fromInit⟩
  rw [execWhole_eq (hi.trans hs)]
  exact (resetProgress_zero hm).runs_to_end hc hrun hs (by unfold paramCount; omega)

/-- Settles O46: the reset runs to its end, and a default that fits its slot is read back from it. -/
theorem resetAllWritesEveryDefault : Obligations.ResetAllWritesEveryDefault := by
  intro s h hrun hm
  obtain ⟨t, ht, hdone⟩ := execWhole_reset h.1 hrun hm (exec_pstResetAll_ready h hrun)
  have hstatus : lastStatus t = some .ok := by simp [lastStatus, hdone.response]
  refine ⟨t, ht, hdone.job, hstatus, hdone.acq, hdone.spe, hdone.csm, hdone.asleep, hdone.cfg,
    hdone.canonical, hdone.checksum, hdone.defaults, hdone.tail, fun index e he hfit => ?_⟩
  have hbytes := hdone.defaults index.toNat e he
  rw [← hdone.cfg] at he hfit hbytes
  exact exec_pstGet_of_stored (hdone.ready h) (schemaAt_lt he) hfit hbytes

/-- A completed reset leaves the checksum of the schema, so the next `PST.INIT` finds it. -/
theorem ResetDone.exec_pstInit {s t : State} {fromInit : Bool} (h : ResetDone s fromInit t) (hs : fgReady s)
    (hrun : s.acq.run = false) : exec (.pstInit .fg) t = .next (answer t (.bits 1 0) .none .none) :=
  exec_pstInit_equal (h.ready hs) (h.acq ▸ hrun) (h.cfg ▸ h.checksum)

/-- Settles O47: `PST.INIT` finds the checksum equal and does nothing, or resets the store as `PST.RESETALL`
does. -/
theorem initNeverRetriggersAReset : Obligations.InitNeverRetriggersAReset := by
  rintro i s (rfl | rfl) h hrun hm
  · by_cases hsum : readLE s.nvm 0 2 = (expectedChecksum s.cfg).toNat
    · have hready : fgReady (answer s (.bits 1 0) .none .none) := h
      refine ⟨_, (execWhole_eq (exec_pstInit_equal h hrun hsum)).trans (storeSteps_idle hready.2.2 _), hready,
        hsum, fun _ => ?_, exec_pstInit_equal hready hrun hsum⟩
      rw [if_pos hsum]
      rfl
    · obtain ⟨t, ht, hdone⟩ := execWhole_reset h.1 hrun hm (exec_pstInit_differs h hrun hsum)
      refine ⟨t, ht, hdone.ready h, hdone.checksum, fun _ => ?_, hdone.exec_pstInit h hrun⟩
      rw [if_neg hsum]
      exact hdone.response
  · obtain ⟨t, ht, hdone⟩ := execWhole_reset h.1 hrun hm (exec_pstResetAll_ready h hrun)
    exact ⟨t, ht, hdone.ready h, hdone.checksum, nofun, hdone.exec_pstInit h hrun⟩

/-- An operation after which a reset is in progress has taken the first step of it. -/
theorem exec_begins_reset {i : Instr} {s t : State} {j : StoreJob} (hi : i = .pstInit .fg ∨ i = .pstResetAll .fg)
    (h : exec i s = .next t) (hj : t.job = some j) : ∃ fromInit, storeStep ⟨0, fromInit⟩ s = .next t := by
  obtain rfl | rfl := hi
  · obtain ⟨-, -, -, hidle, -, ⟨-, rfl⟩ | ⟨-, hs⟩⟩ := exec_pstInit_next h
    · cases hidle.symm.trans hj
    · exact ⟨_, hs⟩
  · obtain ⟨-, -, -, -, -, hs⟩ := exec_pstResetAll_next h
    exact ⟨_, hs⟩

/-- While the reset an operation began is in progress, its position says what of it is written (R65). -/
theorem resetProgress_of_job {i : Instr} {s t u : State} {k : Nat} {j : StoreJob}
    (hi : i = .pstInit .fg ∨ i = .pstResetAll .fg) (hm : Memory.wf s.nvm = true) (h : exec i s = .next t)
    (hk : storeSteps k t = .next u) (hj : u.job = some j) : ResetProgress s j.next u := by
  cases ht : t.job with
  | none =>
    rw [storeSteps_idle ht] at hk
    cases hk
    cases ht.symm.trans hj
  | some first =>
    obtain ⟨fromInit, hs⟩ := exec_begins_reset hi h ht
    obtain ⟨hjob, hprogress⟩ | hdone := (resetProgress_zero hm).storeStep_cases hs
    · exact storeSteps_progress (j := ⟨1, fromInit⟩) hprogress hjob hk hj
    · cases hdone.job.symm.trans ht

/-- A restart leaves the checksum as it is, so over one that differs the next `PST.INIT` begins a reset. -/
theorem restart_then_init_begins_reset {u : State} (hc : wellFormed u.cfg = true)
    (hsum : readLE u.nvm 0 2 ≠ (expectedChecksum u.cfg).toNat) :
    ∃ v w, exec (.sysRestart .fg) u = .next v ∧ exec (.pstInit .fg) v = .next w ∧ w.job = some ⟨1, true⟩ := by
  have hrestart : exec (.sysRestart .fg) u = .next (answer (restartState u) .none .none .none) :=
    anyOp_next.2 ⟨hc, rfl⟩
  have hready : fgReady (answer (restartState u) .none .none .none) := ⟨hc, rfl, rfl⟩
  obtain ⟨e, he⟩ := exists_firstEntry hc
  have hinit := (exec_pstInit_differs hready rfl hsum).trans (storeStep_entry (j := ⟨0, true⟩) hc he)
  exact ⟨_, _, hrestart, hinit, rfl⟩

/-- Settles O48: the defaults before the position are written and nothing else is, so the checksum is as it was. -/
theorem cutStoreResetLeavesTheChecksum : Obligations.CutStoreResetLeavesTheChecksum := by
  intro i s t u k j hi hm h hk hj
  have hprogress := resetProgress_of_job hi hm h hk hj
  refine ⟨hprogress.memory.defaults, hprogress.memory.others, fun hsum => ?_⟩
  have hsame : readLE u.nvm 0 2 = readLE s.nvm 0 2 :=
    readLE_congr fun a _ ha => hprogress.memory.others a (.inl ha)
  refine restart_then_init_begins_reset (hprogress.cfg ▸ exec_next_wellFormed h) ?_
  rw [hsame, hprogress.cfg]
  exact hsum

end Sys2Proof.Machine
end

section
/-! The store is written only while acquisition is stopped (R167, R240). -/

namespace Sys2Proof.Machine

variable {i : Instr} {s t : State}

/-- The three writers of the store run only while acquisition is stopped. -/
theorem exec_writesStore_stopped (h : exec i s = .next t) (hw : writesStore i = true) : s.acq.run = false := by
  cases i with
  | pstInit => obtain ⟨-, -, -, -, hrun, -⟩ := exec_pstInit_next h; exact hrun
  | pstResetAll => obtain ⟨-, -, -, -, hrun, -⟩ := exec_pstResetAll_next h; exact hrun
  | pstSet => obtain ⟨-, -, -, -, hrun, -⟩ := exec_pstSet_next h; exact hrun
  | _ => cases hw

theorem exec_running_nvm (h : exec i s = .next t) (hrun : s.acq.run = true) : t.nvm = s.nvm := by
  refine (exec_frame h).nvm (Bool.eq_false_iff.2 fun hw => ?_)
  rw [exec_writesStore_stopped h hw] at hrun
  cases hrun

/-- A step takes a write of the store reset, which goes on only while acquisition is stopped, or presents an
operation, or rejects a record. -/
theorem step_running_nvm (h : step s = .next t) (hrun : s.acq.run = true) : t.nvm = s.nvm := by
  unfold step at h
  split at h
  · cases h
  · obtain ⟨-, hstopped, -⟩ := continueStore_next.1 h
    cases hstopped.symm.trans hrun
  · next rest _ =>
    split at h
    · exact exec_running_nvm (s := s.withPending rest) h hrun
    · obtain ⟨_, hr⟩ := reject_next h
      rw [raiseError_next.1 hr]
      rfl

theorem exists_exec_pstGet (h : fgReady s) (index : Word) : ∃ t, exec (.pstGet .fg index) s = .next t := by
  obtain hi | hi := Nat.lt_or_ge index.toNat s.cfg.schema.length
  · exact ⟨_, exec_pstGet_ready h hi⟩
  · exact ⟨_, exec_pstGet_outside h hi⟩

theorem exists_exec_pstGetRange (h : fgReady s) (index : Word) :
    ∃ t, exec (.pstGetRange .fg index) s = .next t := by
  cases he : s.cfg.schema[index.toNat]? with
  | some e => exact ⟨_, exec_pstGetRange_ready h he⟩
  | none => exact ⟨_, exec_pstGetRange_outside h (List.getElem?_eq_none_iff.1 he)⟩

/-- Settles O49: the guard of the three writers, the two readers at any index, and the frame of an operation and of
a step while acquisition runs. -/
theorem storeWritersNeedAcquisitionStopped : Obligations.StoreWritersNeedAcquisitionStopped := by
  refine ⟨fun s h hrun => ?_, fun _ _ _ => exec_running_nvm, fun _ _ => step_running_nvm,
    fun _ _ => continueStore_running⟩
  exact ⟨storeWriter_running h hrun _, storeWriter_running h hrun _,
    fun _ _ => storeWriter_running h hrun _, exists_exec_pstGet h, exists_exec_pstGetRange h⟩

end Sys2Proof.Machine
end

section
/-! SYS from a state where an operation may be presented (R181, R183, R184), and the sleeping foreground (R182,
R209). -/

namespace Sys2Proof.Machine

theorem exec_sysWait_ready {s : State} (h : fgReady s) :
    exec (.sysWait .fg) s = .next
      (((s.withAcq { s.acq with convBusy := s.acq.convBusy || startsConversion s.acq }).withAsleep true).withOut
        ⟨some ⟨.ok, .none, .none, .none⟩, startsConversion s.acq, false⟩) :=
  foregroundOp_ready h _

theorem startsConversion_iff (a : Acq) :
    startsConversion a = true ↔ a.run = true ∧ a.feEn = true ∧ a.convBusy = false := by
  simp [startsConversion, and_assoc]

/-- Where no conversion starts, the wait leaves ACQ as it is (R181). -/
theorem withAcq_convBusy_same (s : State) : s.withAcq { s.acq with convBusy := s.acq.convBusy } = s := rfl

/-- Settles O52: by whether a conversion can start. -/
theorem sysWaitSleepsAndStartsAConversion : Obligations.SysWaitSleepsAndStartsAConversion := by
  intro s h
  rw [exec_sysWait_ready h]
  by_cases hstart : s.acq.run = true ∧ s.acq.feEn = true ∧ s.acq.convBusy = false
  · rw [if_pos hstart, (startsConversion_iff _).2 hstart, Bool.or_true]
  · rw [if_neg hstart, Bool.eq_false_iff.2 (mt (startsConversion_iff _).1 hstart), Bool.or_false,
      withAcq_convBusy_same]

/-- Settles O53: the guard is met, and the meaning is the update. -/
theorem watchdogKickAndSerialWake : Obligations.WatchdogKickAndSerialWake :=
  ⟨fun _ h => foregroundOp_ready h _, fun _ hc => interruptOp_int hc _⟩

/-! ### While the foreground sleeps -/

section
variable {s : State} (hc : wellFormed s.cfg = true) (ha : s.asleep = true) (body : Result)
include hc ha

theorem foregroundOp_asleep : foregroundOp .fg s body = .refused .foregroundAsleep := by
  simp [foregroundOp, hc, ha]

theorem foregroundEvent_asleep : foregroundEvent .fg s body = .fault .eventNotEnabled := by
  simp [foregroundEvent, hc, ha]

theorem eitherOp_asleep : eitherOp .fg s body = .refused .foregroundAsleep := by
  simp [eitherOp, hc, ha]

end

/-- The guard of an operation the foreground may present asks that it is awake (R182): the key events are not
enabled then, the others refused (R209). -/
theorem exec_asleep {i : Instr} {s : State} {row : OpRow} (hc : wellFormed s.cfg = true) (ha : s.asleep = true)
    (hrow : opRow (encode i).op = some row) (hctx : row.contexts = .fgOnly ∨ row.contexts = .either)
    (hfg : i.ctx = .fg) :
    exec i s = if row.event then .fault .eventNotEnabled else .refused .foregroundAsleep := by
  cases i with
  | acqInit | acqShutdown =>
    cases hrow
    cases hfg
    exact eitherOp_asleep hc ha _
  | acqPeriod | acqConv | sysSerial | sysRestart =>
    cases hrow
    simp at hctx
  | csmShort | csmLong =>
    cases hrow
    cases hfg
    exact foregroundEvent_asleep hc ha _
  | acqTake | speInit | speFeed | speReset | speGetResult | csmInit | csmProcess | csmTick | pstInit
  | pstResetAll | pstGet | pstSet | pstGetRange | sysWait | sysWdkick =>
    cases hrow
    cases hfg
    exact foregroundOp_asleep hc ha _

/-- The operations of the interrupt context are the events of the acquisition timer and of the serial line (R85). -/
theorem interruptEvent_of_intOnly {i : Instr} {row : OpRow} (hrow : opRow (encode i).op = some row)
    (hctx : row.contexts = .intOnly) :
    (∃ c w, i = .acqPeriod c ∨ i = .acqConv c w) ∨ ∃ c, i = .sysSerial c := by
  cases i with
  | acqPeriod c => exact .inl ⟨c, 0, .inl rfl⟩
  | acqConv c w => exact .inl ⟨c, w, .inr rfl⟩
  | sysSerial c => exact .inr ⟨c, rfl⟩
  | _ =>
    cases hrow
    cases hctx

theorem exec_sysSerial_wakes {c : Ctx} {s t : State} (h : exec (.sysSerial c) s = .next t) : t.asleep = false := by
  obtain ⟨-, -, rfl⟩ := exec_sysSerial_next h
  rfl

/-- R182: every event of the interrupt context wakes the foreground. -/
theorem exec_intOnly_wakes {i : Instr} {s t : State} {row : OpRow} (hrow : opRow (encode i).op = some row)
    (hctx : row.contexts = .intOnly) (h : exec i s = .next t) : t.asleep = false := by
  obtain ⟨_, _, hi⟩ | ⟨_, rfl⟩ := interruptEvent_of_intOnly hrow hctx
  · exact exec_acq_event_wakes hi h
  · exact exec_sysSerial_wakes h

theorem exec_sysWait_sleeps {c : Ctx} {s t : State} (h : exec (.sysWait c) s = .next t) : t.asleep = true := by
  obtain ⟨-, -, -, -, rfl⟩ := exec_sysWait_next h
  rfl

/-- Settles O8: by the guards, by what the three interrupt events write, and by what a wait writes. -/
theorem sleepingForegroundPresentsNothing : Obligations.SleepingForegroundPresentsNothing :=
  ⟨fun _ _ _ => exec_asleep, fun _ _ _ _ => exec_intOnly_wakes, fun _ _ _ => exec_sysWait_sleeps⟩

end Sys2Proof.Machine
end

section
/-! A console excursion (R186), part by part: the shutdown, whatever the console does, the restart of acquisition
and of the window. -/

namespace Sys2Proof.Machine

/-- What the console does is in the store: it reads and writes parameters, and no element of another unit. -/
theorem execAll_consoleActs {acts : List ConsoleAct} {s t : State}
    (h : execAll (acts.map actInstr) s = .next t) : t.acq = s.acq ∧ t.spe = s.spe ∧ t.csm = s.csm := by
  induction acts generalizing s with
  | nil =>
    cases h
    exact ⟨rfl, rfl, rfl⟩
  | cons a acts ih =>
    obtain ⟨u, hact, hrest⟩ := execAll_cons_next.1 h
    obtain ⟨hacq, hspe, hcsm⟩ := ih hrest
    have hframe := exec_frame hact
    cases a with
    | get | set | getRange =>
      exact ⟨hacq.trans (hframe.acq rfl), hspe.trans (hframe.spe rfl), hcsm.trans (hframe.csm rfl)⟩

/-- Entering the console clears the control bits of ACQ and nothing else (R102). -/
theorem execAll_consoleEnter {s t : State} (h : execAll consoleEnter s = .next t) :
    t.acq = { s.acq with run := false, feEn := false, convBusy := false } ∧ t.spe = s.spe ∧ t.csm = s.csm := by
  obtain ⟨_, hshut, hnil⟩ := execAll_cons_next.1 h
  cases hnil
  obtain ⟨-, -, rfl⟩ := exec_acqShutdown_next hshut
  exact ⟨rfl, rfl, rfl⟩

/-- Leaving the console starts acquisition anew and empties the window (R101, R124). -/
theorem execAll_consoleExit {c : Config} {s t : State} (h : execAll (consoleExit c) s = .next t) :
    (∃ p q, t.acq = initialised s.acq p q)
      ∧ t.spe = { s.spe with
          s1 := .written (numOf s.cfg).zero, s2 := .written (numOf s.cfg).zero, cnt := .written 0 }
      ∧ t.csm = s.csm := by
  obtain ⟨_, hinit, hrest⟩ := execAll_cons_next.1 h
  obtain ⟨_, hreset, hnil⟩ := execAll_cons_next.1 hrest
  cases hnil
  obtain ⟨-, -, -, p, q, -, rfl⟩ := exec_acqInit_next hinit
  obtain ⟨-, -, -, -, rfl⟩ := exec_speReset_next hreset
  exact ⟨⟨p, q, rfl⟩, rfl, rfl⟩

/-- Settles O58: entry and console keep what the exit does not write, and the exit starts group and window anew. -/
theorem excursionLeavesNoHalfFormedWindow : Obligations.ExcursionLeavesNoHalfFormedWindow := by
  intro s t acts h
  obtain ⟨v, hconsole, hexit⟩ := execAll_append_next.1 h
  obtain ⟨u, henter, hacts⟩ := execAll_append_next.1 hconsole
  obtain ⟨huacq, huspe, hucsm⟩ := execAll_consoleEnter henter
  obtain ⟨hvacq, hvspe, hvcsm⟩ := execAll_consoleActs hacts
  obtain ⟨⟨p, q, hacq⟩, hspe, hcsm⟩ := execAll_consoleExit hexit
  have hcfg : v.cfg = s.cfg := execAll_cfg hconsole
  rw [hvacq, huacq] at hacq
  rw [hvspe, huspe, hcfg] at hspe
  rw [hacq, hspe]
  exact ⟨rfl, rfl, rfl, rfl, rfl, rfl, rfl, rfl, rfl, rfl, rfl, rfl, rfl, rfl, hcsm.trans (hvcsm.trans hucsm)⟩

end Sys2Proof.Machine
end

section
/-! The status of an operation (R201, R214): only operations of the foreground leave anything but `OK`, by a step of a
store reset that goes on or by a named error. -/

namespace Sys2Proof.Machine

variable {i : Instr} {s t : State}

/-- The status an operation of the foreground may leave in place of `OK`: none while a store reset goes on (R65), or
that of a named error raised in the state the operation began in (R201). -/
inductive StatusNotOk (s t : State) : Prop where
  | silent : lastStatus t = none → StatusNotOk s t
  | raised (st : Status) : raiseError s st = .next t → StatusNotOk s t

theorem lastStatus_answer (s : State) (a b c : RspField) : lastStatus (answer s a b c) = some .ok := rfl

/-- A step of the store reset is silent, and the last one answers `OK` (R162). -/
theorem storeStep_lastStatus {j : StoreJob} (h : storeStep j s = .next t) :
    lastStatus t = some .ok ∨ StatusNotOk s t := by
  obtain ⟨_, -, -, rfl⟩ | ⟨-, -, rfl⟩ := storeStep_next h
  · exact .inr (.silent rfl)
  · exact .inl rfl

/-- Every operation answers `OK`, but for operations of the foreground, which may be silent or raise an error. -/
theorem exec_lastStatus (h : exec i s = .next t) :
    lastStatus t = some .ok ∨ i.ctx = .fg ∧ StatusNotOk s t := by
  cases i with
  | acqInit =>
    obtain ⟨-, -, -, _, _, -, rfl⟩ := exec_acqInit_next h
    exact .inl (lastStatus_answer ..)
  | acqShutdown =>
    obtain ⟨-, -, rfl⟩ := exec_acqShutdown_next h
    exact .inl (lastStatus_answer ..)
  | acqPeriod =>
    obtain ⟨-, -, -, rfl⟩ := exec_acqPeriod_next h
    exact .inl (lastStatus_answer ..)
  | acqConv =>
    obtain ⟨-, -, -, -, -, -, _, _, -, -, rfl⟩ := exec_acqConv_next h
    exact .inl (lastStatus_answer ..)
  | acqTake =>
    obtain ⟨-, -, -, -, -, -, -, _, _, rfl⟩ := exec_acqTake_next h
    exact .inl (lastStatus_answer ..)
  | speInit =>
    obtain ⟨-, -, -, -, rfl⟩ := exec_speInit_next h
    exact .inl (lastStatus_answer ..)
  | speFeed =>
    obtain ⟨-, -, -, -, -, _, _, _, _, _, -, -, -, -, -, -, rfl⟩ := exec_speFeed_next h
    exact .inl (lastStatus_answer ..)
  | speReset =>
    obtain ⟨-, -, -, -, rfl⟩ := exec_speReset_next h
    exact .inl (lastStatus_answer ..)
  | speGetResult =>
    obtain ⟨-, -, -, -, _, -, rfl⟩ := exec_speGetResult_next h
    exact .inl (lastStatus_answer ..)
  | csmInit =>
    obtain ⟨-, -, -, -, _, -, rfl⟩ := exec_csmInit_next h
    exact .inl (lastStatus_answer ..)
  | csmProcess =>
    obtain ⟨-, -, -, -, -, -, _, _, _, -, -, -, rfl⟩ := exec_csmProcess_next h
    exact .inl (lastStatus_answer ..)
  | csmShort =>
    obtain ⟨-, -, -, -, _, -, rfl⟩ := exec_csmShort_next h
    exact .inl (lastStatus_answer ..)
  | csmLong =>
    obtain ⟨-, -, -, -, _, -, rfl⟩ := exec_csmLong_next h
    exact .inl (lastStatus_answer ..)
  | csmTick =>
    obtain ⟨-, -, -, -, _, -, rfl⟩ := exec_csmTick_next h
    exact .inl (lastStatus_answer ..)
  | pstInit =>
    obtain ⟨-, rfl, -, -, -, ⟨-, rfl⟩ | ⟨-, hs⟩⟩ := exec_pstInit_next h
    · exact .inl (lastStatus_answer ..)
    · exact (storeStep_lastStatus hs).imp_right fun hn => ⟨rfl, hn⟩
  | pstResetAll =>
    obtain ⟨-, rfl, -, -, -, hs⟩ := exec_pstResetAll_next h
    exact (storeStep_lastStatus hs).imp_right fun hn => ⟨rfl, hn⟩
  | pstGet =>
    obtain ⟨-, rfl, -, -, ⟨-, hr⟩ | ⟨-, -, rfl⟩⟩ := exec_pstGet_next h
    · exact .inr ⟨rfl, .raised _ hr⟩
    · exact .inl (lastStatus_answer ..)
  | pstSet =>
    obtain ⟨-, rfl, -, -, -, ⟨_, -, hr⟩ | ⟨_, -, -, -, -, rfl⟩⟩ := exec_pstSet_next h
    · exact .inr ⟨rfl, .raised _ hr⟩
    · exact .inl (lastStatus_answer ..)
  | pstGetRange =>
    obtain ⟨-, rfl, -, -, ⟨-, hr⟩ | ⟨_, -, rfl⟩⟩ := exec_pstGetRange_next h
    · exact .inr ⟨rfl, .raised _ hr⟩
    · exact .inl (lastStatus_answer ..)
  | sysWait =>
    obtain ⟨-, -, -, -, rfl⟩ := exec_sysWait_next h
    exact .inl rfl
  | sysWdkick =>
    obtain ⟨-, -, -, -, rfl⟩ := exec_sysWdkick_next h
    exact .inl rfl
  | sysSerial =>
    obtain ⟨-, -, rfl⟩ := exec_sysSerial_next h
    exact .inl (lastStatus_answer ..)
  | sysRestart =>
    obtain ⟨-, rfl⟩ := exec_sysRestart_next h
    exact .inl (lastStatus_answer ..)

/-- A status other than `OK` is that of the named error raised in the state the operation began in. -/
theorem exec_raises_of_lastStatus {st : Status} (h : exec i s = .next t) (hst : lastStatus t = some st)
    (hne : st ≠ .ok) : raiseError s st = .next t := by
  obtain hok | ⟨-, hsilent | ⟨_, hr⟩⟩ := exec_lastStatus h
  · exact absurd (Option.some.inj (hst.symm.trans hok)) hne
  · simp [hst] at hsilent
  · cases Option.some.inj (hst.symm.trans (raiseError_lastStatus hr))
    exact hr

/-- Raising a named error leaves the block, the configuration, the run and the foreground's position (R201). -/
theorem raiseError_keeps {st : Status} (h : raiseError s st = .next t) :
    sameBlock s t ∧ t.cfg = s.cfg ∧ t.job = s.job ∧ t.pending = s.pending ∧ t.foreground = s.foreground := by
  rw [raiseError_next.1 h]
  exact ⟨⟨rfl, rfl, rfl, rfl, rfl⟩, rfl, rfl, rfl, rfl⟩

/-- Settles O10: a status other than `OK` comes from raising an error alone, and in the foreground alone. -/
theorem errorsWriteNoState : Obligations.ErrorsWriteNoState := by
  refine ⟨fun i s t st h hst hne => ?error, fun i s t hint h => ?interrupt⟩
  case error => exact raiseError_keeps (exec_raises_of_lastStatus h hst hne)
  case interrupt =>
    obtain hok | ⟨hfg, -⟩ := exec_lastStatus h
    · exact hok
    · simp [hint] at hfg

end Sys2Proof.Machine
end

section
/-! The restart (R230): it completes in any context of a well-formed configuration, and leaves a state from which the
foreground may present an operation. -/

namespace Sys2Proof.Machine

theorem exec_sysRestart_ready (ctx : Ctx) {s : State} (hc : wellFormed s.cfg = true) :
    exec (.sysRestart ctx) s = .next (answer (restartState s) .none .none .none) :=
  anyOp_next.2 ⟨hc, rfl⟩

theorem fgReady_of_restart {s : State} (hc : wellFormed s.cfg = true) :
    fgReady (answer (restartState s) .none .none .none) :=
  ⟨hc, rfl, rfl⟩

/-- Settles O54: the restart completes, and each element of the state it leaves is its reset value. -/
theorem restartResetsAllButTheMemory : Obligations.RestartResetsAllButTheMemory :=
  fun ctx _ hc => ⟨_, exec_sysRestart_ready ctx hc, rfl, rfl, rfl, rfl, rfl, rfl, rfl, rfl, rfl, rfl, rfl, rfl, rfl,
    rfl, rfl, rfl, rfl, rfl, rfl, rfl, rfl, rfl, rfl, rfl, rfl, rfl, rfl, rfl⟩

end Sys2Proof.Machine
end

section
/-! Operations performed too early (R21, R131, R233): an operation reads its elements one after the other, so one
unwritten element among them is enough for its refusal, whichever stands before it. -/

namespace Sys2Proof.Machine

/-- The outcome is the refusal of a read of an unwritten element (R21). -/
def ReadsUnwritten (r : Result) : Prop :=
  ∃ name, r = .refused (.unwrittenElement name)

/-- A read is refused when its element is unwritten, or when what is read after it is refused. -/
theorem readsUnwritten_readElement {α : Type} {e : Element α} {name : String} {k : α → Result}
    (h : e = .unwritten ∨ ∀ v, ReadsUnwritten (k v)) : ReadsUnwritten (readElement e name k) := by
  cases e with
  | unwritten => exact ⟨name, rfl⟩
  | written v => exact (h.resolve_left nofun) v

theorem ReadsUnwritten.of_eq {r r' : Result} (hr : r' = r) (h : ReadsUnwritten r) : ReadsUnwritten r' :=
  hr.symm ▸ h

/-- A selector in range that is not 0 selects a flag (R105). -/
theorem selects_of_pos {sel : Word} (hpos : 0 < sel.toNat) (hlt : sel.toNat < 4) :
    selects sel 0 = true ∨ selects sel 1 = true := by
  have hcases : sel = 1 ∨ sel = 2 ∨ sel = 3 := by bv_omega
  obtain rfl | rfl | rfl := hcases
  · exact .inl rfl
  · exact .inr rfl
  · exact .inl rfl

section
variable {s : State} (h : fgReady s)
include h

/-- A feed reads all elements of SPE but the result (R123, R131). -/
theorem exec_speFeed_unwritten {x : Word} (hx : inSigned (dsBits s.cfg) x.toInt = true)
    (hun : s.spe.coeff = .unwritten ∨ s.spe.n = .unwritten ∨ s.spe.s1 = .unwritten ∨ s.spe.s2 = .unwritten
      ∨ s.spe.cnt = .unwritten) : ReadsUnwritten (exec (.speFeed .fg x) s) := by
  refine .of_eq ((foregroundOp_ready h _).trans (if_neg (Bool.not_eq_false _ ▸ hx))) ?_
  exact readsUnwritten_readElement (hun.imp_right fun hun _ =>
    readsUnwritten_readElement (hun.imp_right fun hun _ =>
      readsUnwritten_readElement (hun.imp_right fun hun _ =>
        readsUnwritten_readElement (hun.imp_right fun hun _ =>
          readsUnwritten_readElement (.inl hun)))))

/-- A call reads the decision and both counters, whichever branch it takes (R142). -/
theorem exec_csmProcess_unwritten (power high low : RealNum) {on off : Word}
    (hon : on.toNat < 2 ^ s.cfg.cntBits) (hoff : off.toNat < 2 ^ s.cfg.cntBits)
    (hun : s.csm.rd = .unwritten ∨ s.csm.above = .unwritten ∨ s.csm.below = .unwritten) :
    ReadsUnwritten (exec (.csmProcess .fg power high low on off) s) := by
  have hrange : ¬ (inUnsigned s.cfg.cntBits (unsignedOperand on)
      && inUnsigned s.cfg.cntBits (unsignedOperand off)) = false := by
    simp [inUnsigned, unsignedOperand, hon, hoff]
  refine .of_eq ((foregroundOp_ready h _).trans (if_neg hrange)) ?_
  exact readsUnwritten_readElement (hun.imp_right fun hun _ =>
    readsUnwritten_readElement (hun.imp_right fun hun _ => readsUnwritten_readElement (.inl hun)))

theorem changeMode_unwritten (cycle : Mode → Mode) (hm : s.csm.mode = .unwritten) :
    foregroundEvent .fg s (changeMode cycle s) = .refused (.unwrittenElement "CSM.MODE") := by
  rw [foregroundEvent_ready h, changeMode, hm]
  rfl

end

/-- Settles O56: after a restart every element is unwritten and acquisition is stopped; in any other state one
unwritten element that the operation reads is enough. -/
theorem tooEarlyOperationsAreRefused : Obligations.TooEarlyOperationsAreRefused := by
  refine ⟨fun ctx s t h => ?restarted, fun s h => ?unwritten⟩
  case restarted =>
    obtain ⟨hc, rfl⟩ := exec_sysRestart_next h
    have hready := fgReady_of_restart hc
    exact ⟨fun sel hpos hlt => exec_acqTake_unwritten hready hlt
        ((selects_of_pos hpos hlt).imp (⟨·, rfl⟩) (⟨·, rfl⟩)),
      fun x hx => exec_speFeed_unwritten hready hx (.inl rfl),
      ⟨_, exec_speGetResult_unwritten hready rfl⟩,
      fun p h l on off hon hoff => exec_csmProcess_unwritten hready p h l hon hoff (.inl rfl),
      ⟨_, changeMode_unwritten hready shortPush rfl⟩,
      ⟨_, changeMode_unwritten hready longPush rfl⟩,
      ⟨_, exec_csmTick_unwritten hready rfl⟩,
      exec_acqPeriod_stopped hc rfl,
      fun raw => exec_acqConv_notEnabled hready.1 raw (.inl rfl)⟩
  case unwritten =>
    exact ⟨fun _ hx hun => exec_speFeed_unwritten h hx hun,
      fun p hi lo _ _ hon hoff hun => exec_csmProcess_unwritten h p hi lo hon hoff hun,
      fun hm => ⟨changeMode_unwritten h shortPush hm, changeMode_unwritten h longPush hm⟩⟩

end Sys2Proof.Machine
end

section
/-! Turns of the reference foreground (R187, R232): a turn presents the operation of the position, and while a store
reset is in progress the turns are its steps (R72). -/

namespace Sys2Proof.Machine

theorem foregroundTurn_presents {req : Request} {s t : State} {p q : FgPos} (h : fgReady s)
    (hp : s.foreground = p) (he : exec (foregroundPresents s.cfg req p) s = .next t)
    (hq : foregroundMoves s.cfg req p t.out.rsp = some q) :
    foregroundTurn req s = .next (t.withForeground q) := by
  obtain ⟨-, -, hj⟩ := h
  subst hp
  simp only [foregroundTurn, hj, he, hq]

theorem foregroundTurn_busy {req : Request} {s : State} {j : StoreJob} (hj : s.job = some j) :
    foregroundTurn req s = continueStore j s := by
  simp only [foregroundTurn, hj]

theorem foregroundTurns_of_turn {k : Nat} {s t u : State} (ht : foregroundTurn .nothing s = .next t)
    (hu : foregroundTurns k t = .next u) : foregroundTurns (k + 1) s = .next u :=
  andThen_eq_next.2 ⟨t, ht, hu⟩

theorem foregroundTurns_add {j k : Nat} {s t u : State} (ht : foregroundTurns j s = .next t)
    (hu : foregroundTurns k t = .next u) : foregroundTurns (j + k) s = .next u := by
  induction j generalizing s with
  | zero =>
    cases ht
    rwa [Nat.zero_add]
  | succ j ih =>
    obtain ⟨v, hv, ht⟩ := andThen_eq_next.1 ht
    rw [Nat.succ_add]
    exact foregroundTurns_of_turn hv (ih ht)

/-- The steps of a store reset are turns of the foreground, and move its position nowhere. -/
theorem foregroundTurns_of_storeSteps {k : Nat} {s t : State} (h : storeSteps k s = .next t) :
    (∃ j, foregroundTurns j s = .next t) ∧ t.foreground = s.foreground := by
  induction k generalizing s with
  | zero => exact ⟨⟨0, h⟩, by cases h; rfl⟩
  | succ k ih =>
    cases hj : s.job with
    | none =>
      rw [storeSteps_idle hj] at h
      exact ⟨⟨0, h⟩, by cases h; rfl⟩
    | some job =>
      obtain ⟨u, hu, ht⟩ := andThen_eq_next.1 h
      rw [storeOnce_busy hj] at hu
      obtain ⟨-, -, hstep⟩ := continueStore_next.1 hu
      have hpos : u.foreground = s.foreground := by
        obtain ⟨_, -, -, rfl⟩ | ⟨-, -, rfl⟩ := storeStep_next hstep
        all_goals rfl
      obtain ⟨⟨j, hturns⟩, hpos'⟩ := ih ht
      exact ⟨⟨j + 1, foregroundTurns_of_turn ((foregroundTurn_busy hj).trans hu) hturns⟩, hpos'.trans hpos⟩

end Sys2Proof.Machine
end

section
/-! The boot sequence (R232): line 1 checks the store and resets it if it must, the lines after it set the units up
from the stored values. -/

namespace Sys2Proof.Machine

/-- The boot sequence has come to a position: the foreground may present an operation there, and the units and the
store hold these values. -/
structure BootAt (c : Config) (m : Memory) (a : Acq) (p : Spe) (k : Csm) (pos : FgPos) (s : State) : Prop where
  ready : fgReady s
  cfg : s.cfg = c
  nvm : s.nvm = m
  acq : s.acq = a
  spe : s.spe = p
  csm : s.csm = k
  foreground : s.foreground = pos

theorem bootAt_restart {s : State} (hc : wellFormed s.cfg = true) :
    BootAt s.cfg s.nvm Acq.reset Spe.reset Csm.reset .boot1 (answer (restartState s) .none .none .none) :=
  ⟨fgReady_of_restart hc, rfl, rfl, rfl, rfl, rfl, rfl⟩

/-- The value of an entry of the table in a memory (R61, R62). -/
def storedValue (c : Config) (m : Memory) (i : Nat) : Int :=
  decodeValue c (readLE m (slot c i) c.stride)

theorem toNat_operandWord {n : Nat} (h : n < 2 ^ 32) : (operandWord n).toNat = n :=
  Nat.mod_eq_of_lt h

theorem toNat_operandWord_modeCode (m : Mode) : (operandWord (modeCode m)).toNat = modeCode m := by
  cases m <;> rfl

/-- `PST.GET` of an index that fits an operand word answers the value of its entry. -/
theorem exec_pstGet_operandWord {s : State} {i : Nat} (h : fgReady s) (hi : i < s.cfg.schema.length)
    (hword : i < 2 ^ 32) :
    exec (.pstGet .fg (operandWord i)) s
      = .next (answer s (.int (storedValue s.cfg s.nvm i)) .none .none) := by
  have hindex := toNat_operandWord hword
  rw [exec_pstGet_ready h (hindex.symm ▸ hi), hindex]
  rfl

section
variable {c : Config} {m : Memory} {a : Acq} {p : Spe} {k : Csm} {s : State} {freq : RealNum} {mode : Mode}

/-- Line 1, `PST.INIT`: over the expected checksum it ends at once, else with the last step of the store reset it
begins (R161). -/
theorem BootAt.store_checked (h : BootAt c m a p k .boot1 s) (hrun : a.run = false) (hm : Memory.wf m = true) :
    ∃ j t m', foregroundTurns j s = .next t ∧ BootAt c m' a p k .boot2 t
      ∧ readLE m' 0 2 = (expectedChecksum c).toNat
      ∧ (readLE m 0 2 = (expectedChecksum c).toNat → m' = m) := by
  obtain ⟨hready, rfl, rfl, rfl, rfl, rfl, hpos⟩ := h
  by_cases hsum : readLE s.nvm 0 2 = (expectedChecksum s.cfg).toNat
  · have hturn := foregroundTurn_presents (req := .nothing) hready hpos (exec_pstInit_equal hready hrun hsum) rfl
    exact ⟨1, _, s.nvm, foregroundTurns_of_turn hturn rfl, ⟨hready, rfl, rfl, rfl, rfl, rfl, rfl⟩, hsum,
      fun _ => rfl⟩
  · obtain ⟨e, he⟩ := exists_firstEntry hready.1
    have hturn := foregroundTurn_presents (req := .nothing) hready hpos
      ((exec_pstInit_differs hready hrun hsum).trans (storeStep_entry (j := ⟨0, true⟩) hready.1 he)) rfl
    -- The reset goes on from the moved position as it would have from `s` there.
    have hmoved := storeStep_entry (s := s.withForeground .boot2) (j := ⟨0, true⟩) hready.1 he
    obtain ⟨t, hsteps, hdone⟩ := (resetProgress_zero (s := s.withForeground .boot2) hm).runs_to_end
      (s := s.withForeground .boot2) (k := s.cfg.schema.length) hready.1 hrun hmoved (Nat.le_add_left _ _)
    obtain ⟨⟨j, hturns⟩, hkept⟩ := foregroundTurns_of_storeSteps hsteps
    exact ⟨j + 1, t, t.nvm, foregroundTurns_of_turn hturn hturns,
      ⟨hdone.ready hready, hdone.cfg, rfl, hdone.acq, hdone.spe, hdone.csm, hkept⟩, hdone.checksum,
      fun heq => absurd heq hsum⟩

/-- Line 2, `PST.GET` of the frequency. -/
theorem BootAt.frequency_read (h : BootAt c m a p k .boot2 s) (hword : c.idxFreq < 2 ^ 32) :
    ∃ t, foregroundTurn .nothing s = .next t
      ∧ BootAt c m a p k (.boot3 (realOf c c.freqOf (storedValue c m c.idxFreq))) t := by
  obtain ⟨hready, rfl, rfl, rfl, rfl, rfl, hpos⟩ := h
  obtain ⟨-, -, -, hi, -⟩ := wellFormed_indices hready.1
  exact ⟨_, foregroundTurn_presents hready hpos (exec_pstGet_operandWord hready hi hword) rfl,
    hready, rfl, rfl, rfl, rfl, rfl, rfl⟩

/-- Line 3, `PST.GET` of the mode. -/
theorem BootAt.mode_read (h : BootAt c m a p k (.boot3 freq) s) (hword : c.idxMode < 2 ^ 32) :
    ∃ t, foregroundTurn .nothing s = .next t
      ∧ BootAt c m a p k (.boot4 freq (modeOf c (storedValue c m c.idxMode))) t := by
  obtain ⟨hready, rfl, rfl, rfl, rfl, rfl, hpos⟩ := h
  obtain ⟨-, -, -, -, hi⟩ := wellFormed_indices hready.1
  exact ⟨_, foregroundTurn_presents hready hpos (exec_pstGet_operandWord hready hi hword) rfl,
    hready, rfl, rfl, rfl, rfl, rfl, rfl⟩

/-- Line 4, `ACQ.INIT` with the rate `FS`, for which the prescaler search succeeds (R10). -/
theorem BootAt.acquisition_started (h : BootAt c m a p k (.boot4 freq mode) s) (hword : c.fs < 2 ^ 32) :
    ∃ t presc cmp, foregroundTurn .nothing s = .next t
      ∧ BootAt c m (initialised a presc cmp) p k (.boot5 freq mode) t := by
  obtain ⟨hready, rfl, rfl, rfl, rfl, rfl, hpos⟩ := h
  obtain ⟨presc, cmp, hfit⟩ := exists_timerChoice hready.1
  have hinit := exec_acqInit_ready (readyIn_of_fgReady hready .fg) (toNat_operandWord hword) hfit
  exact ⟨_, presc, cmp, foregroundTurn_presents hready hpos hinit rfl, hready, rfl, rfl, rfl, rfl, rfl, rfl⟩

/-- Line 5, `SPE.INIT` with the frequency read. -/
theorem BootAt.coefficient_set (h : BootAt c m a p k (.boot5 freq mode) s) :
    ∃ t, foregroundTurn .nothing s = .next t ∧ BootAt c m a
      { p with coeff := .written ((numOf c).coeff freq c.fs), n := .written (windowLength c) } k
      (.boot6 mode) t := by
  obtain ⟨hready, rfl, rfl, rfl, rfl, rfl, hpos⟩ := h
  exact ⟨_, foregroundTurn_presents hready hpos (exec_speInit_ready hready freq) rfl,
    hready, rfl, rfl, rfl, rfl, rfl, rfl⟩

/-- Line 6, `SPE.RESET`. -/
theorem BootAt.window_emptied (h : BootAt c m a p k (.boot6 mode) s) :
    ∃ t, foregroundTurn .nothing s = .next t ∧ BootAt c m a
      { p with s1 := .written (numOf c).zero, s2 := .written (numOf c).zero, cnt := .written 0 } k
      (.boot7 mode) t := by
  obtain ⟨hready, rfl, rfl, rfl, rfl, rfl, hpos⟩ := h
  exact ⟨_, foregroundTurn_presents hready hpos (exec_speReset_ready hready) rfl,
    hready, rfl, rfl, rfl, rfl, rfl, rfl⟩

/-- Line 7, `CSM.INIT` with the mode read. -/
theorem BootAt.control_started (h : BootAt c m a p k (.boot7 mode) s) :
    ∃ t, foregroundTurn .nothing s = .next t ∧ BootAt c m a p
      ⟨.written mode, .written .opened, .written 0, .written 0, .written 0⟩ .step1 t := by
  obtain ⟨hready, rfl, rfl, rfl, rfl, rfl, hpos⟩ := h
  have hinit := exec_csmInit_ready hready (toNat_operandWord_modeCode mode)
  exact ⟨_, foregroundTurn_presents hready hpos hinit rfl, hready, rfl, rfl, rfl, rfl, rfl, rfl⟩

/-- Lines 2 to 7, a turn for each: the frequency and the mode read from the store set up SPE and CSM. -/
theorem BootAt.units_set_up (h : BootAt c m a p k .boot2 s) (hfreq : c.idxFreq < 2 ^ 32)
    (hmode : c.idxMode < 2 ^ 32) (hfs : c.fs < 2 ^ 32) :
    ∃ t presc cmp, foregroundTurns 6 s = .next t ∧ BootAt c m (initialised a presc cmp)
      { p with
        coeff := .written ((numOf c).coeff (realOf c c.freqOf (storedValue c m c.idxFreq)) c.fs),
        n := .written (windowLength c), s1 := .written (numOf c).zero, s2 := .written (numOf c).zero,
        cnt := .written 0 }
      ⟨.written (modeOf c (storedValue c m c.idxMode)), .written .opened, .written 0, .written 0, .written 0⟩
      .step1 t := by
  obtain ⟨_, hturn2, h⟩ := h.frequency_read hfreq
  obtain ⟨_, hturn3, h⟩ := h.mode_read hmode
  obtain ⟨_, presc, cmp, hturn4, h⟩ := h.acquisition_started hfs
  obtain ⟨_, hturn5, h⟩ := h.coefficient_set
  obtain ⟨_, hturn6, h⟩ := h.window_emptied
  obtain ⟨t, hturn7, h⟩ := h.control_started
  exact ⟨t, presc, cmp, foregroundTurns_of_turn hturn2 <| foregroundTurns_of_turn hturn3 <|
    foregroundTurns_of_turn hturn4 <| foregroundTurns_of_turn hturn5 <| foregroundTurns_of_turn hturn6 <|
    foregroundTurns_of_turn hturn7 rfl, h⟩

end

/-- While the decision is Open the relay is driven by the mode On alone (R151). -/
theorem relayLevel_opened (m : Mode) : relayLevel m .opened = decide (m = .on) := by
  cases m <;> rfl

/-- Settles O55: line 1 ends over the expected checksum, and lines 2 to 7 reach the loop from there. -/
theorem restartBootsTheForeground : Obligations.RestartBootsTheForeground := by
  intro ctx s u hu hm hfreq hmode hfs
  obtain ⟨hc, rfl⟩ := exec_sysRestart_next hu
  obtain ⟨j, v, m, hcheck, hstore, hsum, hkept⟩ := (bootAt_restart hc).store_checked rfl hm
  obtain ⟨t, presc, cmp, hlines, hboot⟩ := hstore.units_set_up hfreq hmode hfs
  obtain ⟨hready, hcfg, rfl, hacq, hspe, hcsm, hpos⟩ := hboot
  have hrelay := relayOut_written (congrArg Csm.mode hcsm) (congrArg Csm.rd hcsm) (congrArg Csm.blink hcsm)
  refine ⟨j + 6, t, foregroundTurns_add hcheck hlines, hpos, hready, hcfg, hsum, hkept, ?_⟩
  rw [hacq, hspe, hcsm]
  exact ⟨rfl, rfl, rfl, rfl, rfl, rfl, rfl, rfl, rfl, rfl, rfl, rfl, rfl, rfl,
    hrelay.trans (relayLevel_opened _)⟩

end Sys2Proof.Machine
end
